-- ==== Sys2Proof/Word.lean ====
section
/-! DEFINITION. The word type of the unit and the two readings of a word (spec/00_scope.md R5, R7, R8). -/

namespace Sys2Proof

/-- A 64-bit quantity: a word, a value, or the contents of a width or lsb port (R5, R26, R28).
Bit `i` has weight `2^i` (R7). -/
abbrev Word := BitVec 64

/-- `U(b)`, the unsigned reading (R8). -/
abbrev U (b : Word) : Nat := b.toNat

/-- `S(b)`, the two's-complement reading (R8). -/
abbrev S (b : Word) : Int := b.toInt

/-- `bits64(z)`: the word whose unsigned reading is `z mod 2^64`, floor modulus (R8). -/
abbrev bits64 (z : Int) : Word := BitVec.ofInt 64 z

end Sys2Proof
end

