-- ==== Sys2Proof/Ports.lean ====
section
/-! DEFINITION. The records carried by the request ports (R29) and the response ports (R30). -/

namespace Sys2Proof

/-- The payload of the request ports in one cycle (R29): operation code and four operands.
It is also what one entry of the in-flight queue holds (R32). -/
structure Request where
  op    : BitVec 3
  word  : Word
  width : Word
  lsb   : Word
  val   : Word
  deriving DecidableEq, Repr, Inhabited

/-- The three conditions other than OK that a response can report (R65, R140). -/
inductive Condition where
  /-- Status 1: the value cannot be represented in the field width (R141). -/
  | doesNotFit
  /-- Status 2: the field descriptor is not contained in the word (R142). -/
  | badField
  /-- Status 3: the operation code is reserved (R143). -/
  | badOp
  deriving DecidableEq, Repr

/-- A response as the sum that R70 asks for: OK with a 64-bit result, or a condition with nothing.
The zero on the result port of a non-OK response appears only in `resultPort` (log 6). -/
inductive Response where
  | ok (result : Word)
  | error (c : Condition)
  deriving DecidableEq, Repr

end Sys2Proof
end

