-- ==== Sys2Proof/Syntax.lean ====
section
/-! DEFINITION. The instructions of the unit: one constructor per row of spec/opcode_table.json (R61). -/

namespace Sys2Proof

/-- One request, by operation. Every constructor carries the four operands of the one format REQ (R60),
those the operation does not read (R62, R63) included, so that no bit of a request is lost. -/
inductive Instr where
  /-- FITS.S, op 0 (R111). Reads width and val. -/
  | fitsS (word width lsb val : Word)
  /-- FITS.U, op 1 (R113). Reads width and val. -/
  | fitsU (word width lsb val : Word)
  /-- GET.S, op 2 (R120). Reads word, width and lsb. -/
  | getS (word width lsb val : Word)
  /-- GET.U, op 3 (R121). Reads word, width and lsb. -/
  | getU (word width lsb val : Word)
  /-- SET.S, op 4 (R131). Reads all four. -/
  | setS (word width lsb val : Word)
  /-- SET.U, op 5 (R130). Reads all four. -/
  | setU (word width lsb val : Word)
  /-- The reserved code 6 (R67). Reads nothing. -/
  | reserved6 (word width lsb val : Word)
  /-- The reserved code 7 (R67). Reads nothing. -/
  | reserved7 (word width lsb val : Word)
  deriving DecidableEq, Repr

end Sys2Proof
end

