-- ==== Sys2Proof/WellFormed.lean ====
section
/-! DEFINITION. Which instructions software may issue (R67, R68), and which are inside the source's contract (R12, R27).

Neither check gates execution: a reserved code is answered BAD_OP (R67) and a descriptor that is not contained is
answered BAD_FIELD (R142). Every operand is a full 64-bit port value (R62), so no operand can be out of its type. -/

namespace Sys2Proof

/-- R67, R68: the operation code is one of the six assigned ones. The two reserved codes are illegal. -/
def Instr.wf : Instr → Bool
  | .fitsS _ _ _ _ => true
  | .fitsU _ _ _ _ => true
  | .getS _ _ _ _ => true
  | .getU _ _ _ _ => true
  | .setS _ _ _ _ => true
  | .setU _ _ _ _ => true
  | .reserved6 _ _ _ _ => false
  | .reserved7 _ _ _ _ => false

/-- R12, R27: the field descriptor, where the instruction has one (GET and SET), is contained in the word.
A FITS has no descriptor (R116) and a reserved code has no operands (R63). -/
def Instr.contained : Instr → Bool
  | .fitsS _ _ _ _ => true
  | .fitsU _ _ _ _ => true
  | .getS _ width lsb _ => decide (U lsb + U width ≤ 64)
  | .getU _ width lsb _ => decide (U lsb + U width ≤ 64)
  | .setS _ width lsb _ => decide (U lsb + U width ≤ 64)
  | .setU _ width lsb _ => decide (U lsb + U width ≤ 64)
  | .reserved6 _ _ _ _ => true
  | .reserved7 _ _ _ _ => true

end Sys2Proof
end

