-- ==== Sys2Proof/Decode.lean ====
section
/-! DEFINITION. The request format REQ, the decoder, and after it the encoder (R60, R61, R62, R67, R69, R71). -/

namespace Sys2Proof

/-! ### The packing of the five request fields -/

/-- The packed request: `REQ[258:0] = op ++ word ++ width ++ lsb ++ val` (R60). -/
def Request.pack (r : Request) : BitVec 259 :=
  r.op ++ r.word ++ r.width ++ r.lsb ++ r.val

/-- The five fields of a packed request, at the bit positions of R60's table. -/
def unpackRequest (b : BitVec 259) : Request where
  op    := b.extractLsb' 256 3
  word  := b.extractLsb' 192 64
  width := b.extractLsb' 128 64
  lsb   := b.extractLsb' 64 64
  val   := b.extractLsb' 0 64

/-! ### Decoding -/

/-- R61: the operation is selected by `op` alone; each of the eight codes has its own row, so decoding is total (R71). -/
def decodeRequest (r : Request) : Instr :=
  match r.op with
  | 0b000#3 => .fitsS r.word r.width r.lsb r.val
  | 0b001#3 => .fitsU r.word r.width r.lsb r.val
  | 0b010#3 => .getS r.word r.width r.lsb r.val
  | 0b011#3 => .getU r.word r.width r.lsb r.val
  | 0b100#3 => .setS r.word r.width r.lsb r.val
  | 0b101#3 => .setU r.word r.width r.lsb r.val
  | 0b110#3 => .reserved6 r.word r.width r.lsb r.val
  | 0b111#3 => .reserved7 r.word r.width r.lsb r.val

/-- The instruction a packed request stands for (R60, R61). -/
def decode (b : BitVec 259) : Instr := decodeRequest (unpackRequest b)

/-- Why a string of bits is no request. -/
inductive DecodeRefusal where
  /-- A bit at or above index 259 is set: there is no other format and no longer one (R60, R68). Safe (log 11). -/
  | widerThanReq
  deriving DecidableEq, Repr

/-- The request in a number whose bit 0 is REQ bit 0, field by field (R60). Only the 259 bits of REQ may be set (R68; log 11).
It is `unpackRequest` of the number as 259 bits; written on numbers so that no power above `2^256` is evaluated. -/
def requestOfBits (n : Nat) : Except DecodeRefusal Request :=
  if n / 2 ^ 256 < 8 then
    .ok { op := BitVec.ofNat 3 (n / 2 ^ 256), word := BitVec.ofNat 64 (n / 2 ^ 192), width := BitVec.ofNat 64 (n / 2 ^ 128),
          lsb := BitVec.ofNat 64 (n / 2 ^ 64), val := BitVec.ofNat 64 n }
  else .error .widerThanReq

/-- Decoding of any string of bits, refusing by name what is no request. -/
def decodeBits (n : Nat) : Except DecodeRefusal Instr :=
  match requestOfBits n with
  | .ok r => .ok (decodeRequest r)
  | .error e => .error e

/-- Bytes, the first byte least significant: the container a byte-addressed tool would use (log 11).
The unit itself never sees bytes (R42). -/
def bitsOfBytes : List (BitVec 8) → Nat
  | [] => 0
  | b :: bs => b.toNat + 256 * bitsOfBytes bs

/-- Decoding of any bytes. -/
def decodeBytes (bs : List (BitVec 8)) : Except DecodeRefusal Instr := decodeBits (bitsOfBytes bs)

/-- `w mod 2^nbits`, with no power above `2^256` evaluated for the table's 264 bits. -/
def lowBits (nbits w : Nat) : Nat :=
  if nbits ≤ 256 then w % 2 ^ nbits
  else w % 2 ^ 256 + 2 ^ 256 * (w / 2 ^ 256 % 2 ^ (nbits - 256))

/-- The low `nbits` bits of `w`, every bit above them 0, as a request: none where they are no request. -/
def tableRequest (nbits w : Nat) : Option Request :=
  match requestOfBits (lowBits nbits w) with
  | .ok r => some r
  | .error _ => none

/-- What the decoder reads from a row's bits, numbered as the opcode table numbers them. -/
def decodeTableWord (nbits w : Nat) : Option Instr := (tableRequest nbits w).map decodeRequest

/-! ### Encoding -/

/-- The operation code of R61's table. -/
def Instr.opcode : Instr → BitVec 3
  | .fitsS _ _ _ _ => 0b000#3
  | .fitsU _ _ _ _ => 0b001#3
  | .getS _ _ _ _ => 0b010#3
  | .getU _ _ _ _ => 0b011#3
  | .setS _ _ _ _ => 0b100#3
  | .setU _ _ _ _ => 0b101#3
  | .reserved6 _ _ _ _ => 0b110#3
  | .reserved7 _ _ _ _ => 0b111#3

/-- The request that carries an instruction: its code and its four operands (R60). -/
def encodeRequest (i : Instr) : Request :=
  match i with
  | .fitsS word width lsb val => { op := i.opcode, word := word, width := width, lsb := lsb, val := val }
  | .fitsU word width lsb val => { op := i.opcode, word := word, width := width, lsb := lsb, val := val }
  | .getS word width lsb val => { op := i.opcode, word := word, width := width, lsb := lsb, val := val }
  | .getU word width lsb val => { op := i.opcode, word := word, width := width, lsb := lsb, val := val }
  | .setS word width lsb val => { op := i.opcode, word := word, width := width, lsb := lsb, val := val }
  | .setU word width lsb val => { op := i.opcode, word := word, width := width, lsb := lsb, val := val }
  | .reserved6 word width lsb val => { op := i.opcode, word := word, width := width, lsb := lsb, val := val }
  | .reserved7 word width lsb val => { op := i.opcode, word := word, width := width, lsb := lsb, val := val }

/-- The packed request of an instruction (R60). -/
def encode (i : Instr) : BitVec 259 := (encodeRequest i).pack

/-! ### The structure of the code -/

/-- `op[2:1]`, the class: 00 fits, 01 get, 10 set, 11 reserved (R61). -/
def opClass (op : BitVec 3) : BitVec 2 := op.extractLsb' 1 2

/-- `op[0]`, the signedness: 0 signed, 1 unsigned (R61). -/
def opUnsigned (op : BitVec 3) : Bool := op.getLsbD 0

/-! ### Request lines (R69): mnemonic, then the operands in the source's order; operands not read are packed as 0 -/

/-- `FITS.S n, width` -/
def lineFitsS (n : Int) (width : Nat) : Request :=
  { op := 0, word := 0, width := BitVec.ofNat 64 width, lsb := 0, val := bits64 n }

/-- `FITS.U n, width` -/
def lineFitsU (n : Nat) (width : Nat) : Request :=
  { op := 1, word := 0, width := BitVec.ofNat 64 width, lsb := 0, val := bits64 n }

/-- `GET.S word, width, lsb` -/
def lineGetS (word width lsb : Nat) : Request :=
  { op := 2, word := BitVec.ofNat 64 word, width := BitVec.ofNat 64 width, lsb := BitVec.ofNat 64 lsb, val := 0 }

/-- `GET.U word, width, lsb` -/
def lineGetU (word width lsb : Nat) : Request :=
  { op := 3, word := BitVec.ofNat 64 word, width := BitVec.ofNat 64 width, lsb := BitVec.ofNat 64 lsb, val := 0 }

/-- `SET.U word, width, lsb, value` -/
def lineSetU (word width lsb value : Nat) : Request :=
  { op := 5, word := BitVec.ofNat 64 word, width := BitVec.ofNat 64 width, lsb := BitVec.ofNat 64 lsb,
    val := bits64 value }

/-- `SET.S word, width, lsb, value` -/
def lineSetS (word width lsb : Nat) (value : Int) : Request :=
  { op := 4, word := BitVec.ofNat 64 word, width := BitVec.ofNat 64 width, lsb := BitVec.ofNat 64 lsb,
    val := bits64 value }

end Sys2Proof
end

