-- ==== Sys2Proof/Machine/State.lean ====
section
/-! DEFINITION. The state of the unit: the in-flight queue and the ports, and beside them the model's own two fields (R29 to R35). -/

namespace Sys2Proof.Machine

/-- One move of one of the three agents of R33. Which agent moves next is plain data (log 1). -/
inductive Move where
  /-- R33(a): the requester presents `r` on the request ports for one cycle. -/
  | accept (r : Request)
  /-- R33(b): the unit answers the oldest request in flight. -/
  | respond
  /-- R33(c): a whole reset, asserted and released again. -/
  | reset
  /-- R170: the environment asserts `rst` and holds it. -/
  | assertRst
  /-- R170: the environment releases `rst`. -/
  | releaseRst
  deriving DecidableEq, Repr

/-- Everything the spec gives the machine. There are no registers, no program counter, no flags, no control registers
and no memory (R20 to R25, R40); what exists is the queue (R32) and the ports (R30, R31). -/
structure State where
  /-- Q, the requests accepted and not yet answered, oldest first (R32). -/
  queue     : List Request
  /-- The reset input: true while `rst` is asserted (R31, R170). -/
  rst       : Bool
  /-- The response ports after the last step: `none` is `rsp_valid` = 0, when the payload has no value (R30). -/
  rsp       : Option Response
  /-- The model's own: every response emitted so far, oldest first. The unit never reads it (log 3). -/
  delivered : List Response
  /-- The model's own: the moves to come, next first (log 1). -/
  schedule  : List Move
  deriving DecidableEq, Repr

/-- Reasons for the machine to stop with a fault: none. The unit never becomes stuck and never halts (R33), and every
error condition is a response (R147). With no constructor, that is part of the type. -/
inductive Fault where
  deriving DecidableEq, Repr

/-- Reasons to give an instruction no meaning. -/
inductive Refusal where
  /-- Raised by an arm of `exec` whose instruction has no meaning yet; no arm of this model does. Safe. -/
  | notModelled (mnemonic : String)
  deriving DecidableEq, Repr

/-- Right after reset: Q empty and `rsp_valid` 0 (R35, R171); `rst` released, nothing delivered and nothing scheduled (log 5). -/
def State.reset : State where
  queue     := []
  rst       := false
  rsp       := none
  delivered := []
  schedule  := []

end Sys2Proof.Machine
end

