-- ==== Sys2Proof/Machine/Datapath.lean ====
section
/-! DEFINITION. The shared datapath: the total functions the three families are written in (spec/40_datapath.md R90 to R97;
spec/41_fits.md R110, R112). Widths and amounts are naturals of any size (R9). -/

namespace Sys2Proof.Machine

/-- FIELD_OK(w, l): the field is contained in the word, with an exact sum (R90). -/
def fieldOk (w l : Nat) : Bool := decide (l + w ≤ 64)

/-- MASK(w): bits `[0, w)` set, every bit when `w ≥ 64` (R91). -/
def mask (w : Nat) : Word := if 64 ≤ w then BitVec.allOnes 64 else BitVec.ofNat 64 (2 ^ w - 1)

/-- SHR(x, s): logical right shift by any natural amount; 0 from 64 on (R92). -/
def shr (x : Word) (s : Nat) : Word := if 64 ≤ s then 0 else x >>> s

/-- SHL(x, s): left shift by any natural amount, keeping 64 bits; 0 from 64 on (R93). -/
def shl (x : Word) (s : Nat) : Word := if 64 ≤ s then 0 else x <<< s

/-- FMASK(w, l): the field mask in place (R97). -/
def fmask (w l : Nat) : Word := shl (mask w) l

/-- EXTRACT(word, w, l): the field moved to position 0, zeros above it (R94). -/
def extract (word : Word) (w l : Nat) : Word := shr word l &&& mask w

/-- sext_w(f): the bits at and above `w` filled with bit `w - 1`; sext_0 is 0 (R95). -/
def sext (w : Nat) (f : Word) : Word :=
  if w = 0 then 0
  else if f.getLsbD (w - 1) then f ||| ~~~(mask w)
  else f

/-- INSERT(word, w, l, p): the field's old bits cleared, then the pattern `p` at `l` (R96, R132). -/
def insert (word : Word) (w l : Nat) (p : Word) : Word := (word &&& ~~~(fmask w l)) ||| shl p l

/-- fits_s(n, w): `n` is in the two's-complement range of `w` bits; only 0 fits width 0; everything fits from 64 on (R110). -/
def fitsS (n : Int) (w : Nat) : Bool :=
  if w = 0 then decide (n = 0)
  else if 64 ≤ w then true
  else decide (-(2 ^ (w - 1) : Int) ≤ n) && decide (n ≤ (2 ^ (w - 1) : Int) - 1)

/-- fits_u(n, w): `n` is at most `2^w - 1`; everything fits from 64 on (R112). -/
def fitsU (n : Nat) (w : Nat) : Bool :=
  if 64 ≤ w then true else decide (n ≤ 2 ^ w - 1)

/-! ### The forms the hardware evaluates -/

/-- FIELD_OK on the two port values: the high bits zero and an 8-bit sum of the low seven bits at most 64 (R90). -/
def fieldOkBits (width lsb : Word) : Bool :=
  width.extractLsb' 7 57 == 0#57 && lsb.extractLsb' 7 57 == 0#57 &&
    decide ((width.extractLsb' 0 7).setWidth 8 + (lsb.extractLsb' 0 7).setWidth 8 ≤ 64#8)

/-- fits_s on bits: `val[63 : w-1]` all equal; for width 0 the value is zero (R114). -/
def fitsSBits (val : Word) (w : Nat) : Bool :=
  if w = 0 then val == 0
  else val &&& ~~~(mask (w - 1)) == 0 || val &&& ~~~(mask (w - 1)) == ~~~(mask (w - 1))

/-- fits_u on bits: no bit of the value at or above `w` (R115). -/
def fitsUBits (val : Word) (w : Nat) : Bool := val &&& ~~~(mask w) == 0

end Sys2Proof.Machine
end

