-- ==== Sys2Proof/Machine/Operands.lean ====
section
/-! DEFINITION. How each operation reads its operands (R62, R63). -/

namespace Sys2Proof.Machine

/-- `w = U(width)`: the width is always unsigned (R62). -/
def readWidth (width : Word) : Nat := U width

/-- `l = U(lsb)`: the bit index is always unsigned (R62). -/
def readLsb (lsb : Word) : Nat := U lsb

/-- `S(val)`: the value of FITS.S and SET.S (R62). -/
def readValS (val : Word) : Int := S val

/-- `U(val)`: the value of FITS.U and SET.U (R62). -/
def readValU (val : Word) : Nat := U val

/-- R62, column `word`: read by GET and SET. -/
def readsWord (op : BitVec 3) : Bool := op = 2 ∨ op = 3 ∨ op = 4 ∨ op = 5

/-- R62, column `width`: read by all six operations. -/
def readsWidth (op : BitVec 3) : Bool := op ≠ 6 ∧ op ≠ 7

/-- R62, column `lsb`: read by GET and SET. -/
def readsLsb (op : BitVec 3) : Bool := op = 2 ∨ op = 3 ∨ op = 4 ∨ op = 5

/-- R62, column `val`: read by FITS and SET. -/
def readsVal (op : BitVec 3) : Bool := op = 0 ∨ op = 1 ∨ op = 4 ∨ op = 5

/-- Two requests with the same operation code that agree on every operand this code reads (R62, R63). -/
def agreeOnReadOperands (r₁ r₂ : Request) : Prop :=
  r₁.op = r₂.op ∧
  (readsWord r₁.op = true → r₁.word = r₂.word) ∧
  (readsWidth r₁.op = true → r₁.width = r₂.width) ∧
  (readsLsb r₁.op = true → r₁.lsb = r₂.lsb) ∧
  (readsVal r₁.op = true → r₁.val = r₂.val)

end Sys2Proof.Machine
end

