-- ==== Sys2Proof/Machine/Flags.lean ====
section
/-! DEFINITION. The unit has no flags (R23). What a response says in their place: the status code, the result port and
the encoding of a boolean (R64, R65, R66, R70). -/

namespace Sys2Proof.Machine

/-- `zext_64` of a boolean: 1 for true, 0 for false (R66). -/
def zext64 (b : Bool) : Word := if b then 1 else 0

/-- The code of a condition (R65, R140). -/
def conditionCode : Condition → BitVec 2
  | .doesNotFit => 1
  | .badField => 2
  | .badOp => 3

/-- The status port of a response (R65). -/
def statusCode : Response → BitVec 2
  | .ok _ => 0
  | .error c => conditionCode c

/-- The result port of a response: all zeros when the status is not OK (R70). -/
def resultPort : Response → Word
  | .ok x => x
  | .error _ => 0

/-- `RSP[65:0] = status ++ result` (R64). -/
def packResponse (r : Response) : BitVec 66 := statusCode r ++ resultPort r

/-- The response a packed RSP stands for; none where the status is not OK and the result is not zero, which no
response is (R70). -/
def unpackResponse (b : BitVec 66) : Option Response :=
  let result := b.extractLsb' 0 64
  match b.extractLsb' 64 2 with
  | 0#2 => some (.ok result)
  | 1#2 => if result = 0 then some (.error .doesNotFit) else none
  | 2#2 => if result = 0 then some (.error .badField) else none
  | 3#2 => if result = 0 then some (.error .badOp) else none

end Sys2Proof.Machine
end

