-- ==== Sys2Proof/Machine/Ops.lean ====
section
/-! DEFINITION. The operations on the state that every move and every meaning is made of (R33, R147, R170). -/

namespace Sys2Proof.Machine

/-- The outcome type of the machine. -/
abbrev Out := Host.Outcome State Fault Refusal

/-- R33(b), R30: emit a response. It stands on the response ports after this step and is the newest delivered one;
nothing else changes. -/
def deliver (r : Response) (s : State) : State :=
  { s with rsp := some r, delivered := s.delivered ++ [r] }

/-- Taking an exception, `raise c` (R147): the operation ends and its response is `respond(c, 0)`. No state is saved,
no mode changes and no control goes anywhere (R144, R147, R148), so there is no return from it either. -/
def raise (c : Condition) : Response := .error c

/-- `respond(OK, x)`. -/
def respondOk (x : Word) : Response := .ok x

/-- A step that emits nothing: `rsp_valid` is 0 after it (R30), and while `rst` is asserted Q is empty (R170). -/
def idle (s : State) : State :=
  { s with rsp := none, queue := if s.rst then [] else s.queue }

/-- R33(a): `Q <- Q ++ [r]`, enabled outside reset only; while `rst` is asserted the request is ignored (R170). -/
def accept (r : Request) (s : State) : State :=
  if s.rst then idle s else { s with queue := s.queue ++ [r], rsp := none }

/-- R170: `rst` is asserted: Q is emptied, its requests are never answered, `rsp_valid` is 0. -/
def assertRst (s : State) : State := { s with rst := true, queue := [], rsp := none }

/-- R170: `rst` is released; nothing else changes. -/
def releaseRst (s : State) : State := { (idle s) with rst := false }

/-- R33(c): the reset step, `Q <- []` with no response, as assertion and release (log 2). -/
def resetPulse (s : State) : State := releaseRst (assertRst s)

/-- The move to make next, and the state with that move taken off the schedule. With nothing scheduled the unit's own
step is taken, so that every request in flight is answered in the end (weak fairness, R33; log 1). -/
def nextMove (s : State) : Move × State :=
  match s.schedule with
  | [] => (.respond, s)
  | m :: rest => (m, { s with schedule := rest })

/-- R33(b), R32: the oldest request in flight, decoded, and the state without it. None when `rst` is asserted or Q is
empty, where *respond* is not enabled. -/
def fetch (s : State) : Option (Instr × State) :=
  if s.rst then none
  else
    match s.queue with
    | [] => none
    | r :: q => some (decodeRequest r, { s with queue := q })

/-- The state in which *respond* is the next move and `r` is the oldest request in flight. -/
def placeRequest (r : Request) (s : State) : State :=
  { s with queue := r :: s.queue, rst := false, schedule := .respond :: s.schedule }

end Sys2Proof.Machine
end

