-- ==== Sys2Proof/Machine/Fits.lean ====
section
/-! DEFINITION. The fits family (spec/41_fits.md): FITS.S and FITS.U. -/

namespace Sys2Proof.Machine

/-- The response to FITS.S (R111): the predicate of R110 as a boolean, never an error (R116). -/
def answerFitsS (_word width _lsb val : Word) : Response :=
  respondOk (zext64 (fitsS (readValS val) (readWidth width)))

/-- The response to FITS.U (R113): the predicate of R112 as a boolean, never an error (R116). -/
def answerFitsU (_word width _lsb val : Word) : Response :=
  respondOk (zext64 (fitsU (readValU val) (readWidth width)))

/-- FITS.S (R111). -/
def execFitsS (word width lsb val : Word) (s : State) : Out :=
  .next (deliver (answerFitsS word width lsb val) s)

/-- FITS.U (R113). -/
def execFitsU (word width lsb val : Word) (s : State) : Out :=
  .next (deliver (answerFitsU word width lsb val) s)

end Sys2Proof.Machine
end

