-- ==== Sys2Proof/Machine/Get.lean ====
section
/-! DEFINITION. The get family (spec/42_get.md): GET.S and GET.U. -/

namespace Sys2Proof.Machine

/-- The response to GET.S (R120): BAD_FIELD, or the field sign-extended. -/
def answerGetS (word width lsb _val : Word) : Response :=
  if fieldOk (readWidth width) (readLsb lsb) then
    respondOk (sext (readWidth width) (extract word (readWidth width) (readLsb lsb)))
  else raise .badField

/-- The response to GET.U (R121): BAD_FIELD, or the field at position 0. -/
def answerGetU (word width lsb _val : Word) : Response :=
  if fieldOk (readWidth width) (readLsb lsb) then
    respondOk (extract word (readWidth width) (readLsb lsb))
  else raise .badField

/-- GET.S (R120). -/
def execGetS (word width lsb val : Word) (s : State) : Out :=
  .next (deliver (answerGetS word width lsb val) s)

/-- GET.U (R121). -/
def execGetU (word width lsb val : Word) (s : State) : Out :=
  .next (deliver (answerGetU word width lsb val) s)

end Sys2Proof.Machine
end

