-- ==== Sys2Proof/Machine/Reserved.lean ====
section
/-! DEFINITION. The two reserved operation codes (spec/30_encoding.md R67): answered BAD_OP, operands ignored. -/

namespace Sys2Proof.Machine

/-- The response to code 6 (R67, R143). -/
def answerReserved6 (_word _width _lsb _val : Word) : Response := raise .badOp

/-- The response to code 7 (R67, R143). -/
def answerReserved7 (_word _width _lsb _val : Word) : Response := raise .badOp

/-- Code 6 (R67). -/
def execReserved6 (word width lsb val : Word) (s : State) : Out :=
  .next (deliver (answerReserved6 word width lsb val) s)

/-- Code 7 (R67). -/
def execReserved7 (word width lsb val : Word) (s : State) : Out :=
  .next (deliver (answerReserved7 word width lsb val) s)

end Sys2Proof.Machine
end

