-- ==== Sys2Proof/Machine/Set.lean ====
section
/-! DEFINITION. The set family (spec/43_set.md): SET.U and SET.S. -/

namespace Sys2Proof.Machine

/-- The response to SET.U (R130): BAD_FIELD first, then DOES_NOT_FIT (R146), else the word with its field replaced (R132). -/
def answerSetU (word width lsb val : Word) : Response :=
  if fieldOk (readWidth width) (readLsb lsb) then
    if fitsU (readValU val) (readWidth width) then
      respondOk (insert word (readWidth width) (readLsb lsb) val)
    else raise .doesNotFit
  else raise .badField

/-- The response to SET.S (R131): as SET.U, with the signed check and the value's pattern masked to the width. -/
def answerSetS (word width lsb val : Word) : Response :=
  if fieldOk (readWidth width) (readLsb lsb) then
    if fitsS (readValS val) (readWidth width) then
      respondOk (insert word (readWidth width) (readLsb lsb) (val &&& mask (readWidth width)))
    else raise .doesNotFit
  else raise .badField

/-- SET.U (R130). -/
def execSetU (word width lsb val : Word) (s : State) : Out :=
  .next (deliver (answerSetU word width lsb val) s)

/-- SET.S (R131). -/
def execSetS (word width lsb val : Word) (s : State) : Out :=
  .next (deliver (answerSetS word width lsb val) s)

end Sys2Proof.Machine
end

