-- ==== Sys2Proof/Machine/Answer.lean ====
section
/-! DEFINITION. The response function of R34: a total pure function of one request. -/

namespace Sys2Proof.Machine

/-- The response to an instruction (R34). -/
def answer : Instr → Response
  | .fitsS word width lsb val => answerFitsS word width lsb val
  | .fitsU word width lsb val => answerFitsU word width lsb val
  | .getS word width lsb val => answerGetS word width lsb val
  | .getU word width lsb val => answerGetU word width lsb val
  | .setS word width lsb val => answerSetS word width lsb val
  | .setU word width lsb val => answerSetU word width lsb val
  | .reserved6 word width lsb val => answerReserved6 word width lsb val
  | .reserved7 word width lsb val => answerReserved7 word width lsb val

/-- `exec : Request -> Response` of R34. -/
def answerRequest (r : Request) : Response := answer (decodeRequest r)

end Sys2Proof.Machine
end

