-- ==== Sys2Proof/Machine/Dispatch.lean ====
section
/-! DEFINITION. The meaning of every instruction: one arm per constructor of Instr. -/

namespace Sys2Proof.Machine

def exec (i : Instr) (s : State) : Host.Outcome State Fault Refusal :=
  match i with
  | .fitsS word width lsb val => Sys2Proof.Machine.execFitsS word width lsb val s
  | .fitsU word width lsb val => Sys2Proof.Machine.execFitsU word width lsb val s
  | .getS word width lsb val => Sys2Proof.Machine.execGetS word width lsb val s
  | .getU word width lsb val => Sys2Proof.Machine.execGetU word width lsb val s
  | .setS word width lsb val => Sys2Proof.Machine.execSetS word width lsb val s
  | .setU word width lsb val => Sys2Proof.Machine.execSetU word width lsb val s
  | .reserved6 word width lsb val => Sys2Proof.Machine.execReserved6 word width lsb val s
  | .reserved7 word width lsb val => Sys2Proof.Machine.execReserved7 word width lsb val s

end Sys2Proof.Machine
end

