-- ==== Sys2Proof/Machine/Step.lean ====
section
/-! DEFINITION. One step of the transition system of R33. -/

namespace Sys2Proof.Machine

/-- The next move of R33. *respond* takes the oldest request of Q off the queue and runs it; where *respond* is not
enabled nothing is emitted. -/
def step (s : State) : Host.Outcome State Fault Refusal :=
  match nextMove s with
  | (.accept r, t) => .next (accept r t)
  | (.respond, t) =>
    match fetch t with
    | some (i, u) => exec i u
    | none => .next (idle t)
  | (.reset, t) => .next (resetPulse t)
  | (.assertRst, t) => .next (assertRst t)
  | (.releaseRst, t) => .next (releaseRst t)

/-- The state whose very next step answers the request in a row's bits: it is the oldest request in flight and
*respond* is the next move (log 5). Bits that are no request change nothing. -/
def State.withFetchWord (s : State) (nbits w : Nat) : State :=
  match tableRequest nbits w with
  | some r => placeRequest r s
  | none => s

end Sys2Proof.Machine
end

