-- ==== Sys2Proof/Config.lean ====
section
/-! DEFINITION. The two parameters the spec leaves OPEN (spec/00_scope.md R6; D14, D15).

The other parameters of R6 are fixed by the spec and stand in the definitions they shape: OP_BITS = 3 and
STATUS_BITS = 2 in the types of `Request.op` and `statusCode`, OVERWRITE = clear in `insert`, ZERO_WIDTH in `fitsS`,
`sext` and `mask`, WIDE_FITS in `fitsS` and `fitsU`, BAD_FIELD_ACTION in the get and set families,
RESERVED_OP_ACTION in the reserved family, ERROR_RESULT in `resultPort`. -/

namespace Sys2Proof

/-- Polarity of the `rst` input, half of RESET_STYLE (R31, D15). -/
inductive Polarity where
  | activeHigh
  | activeLow
  deriving DecidableEq, Repr, Inhabited

/-- Whether `rst` acts at a clock edge or at once, half of RESET_STYLE (R31, D15).
Inside one clock cycle the two are not told apart (log 9). -/
inductive Synchrony where
  | synchronous
  | asynchronous
  deriving DecidableEq, Repr, Inhabited

/-- RESET_STYLE (R6, R31). -/
structure ResetStyle where
  polarity  : Polarity
  synchrony : Synchrony
  deriving DecidableEq, Repr, Inhabited

/-- LATENCY of this unit, a natural number (R6, R176). OPEN: no body, so nothing can depend on its value (log 7). -/
opaque Config.latency : Nat

/-- RESET_STYLE of this unit (R6, R31). OPEN: no body (log 7). -/
opaque Config.resetStyle : ResetStyle

end Sys2Proof
end

