-- ==== Sys2Proof/Machine/Clocked.lean ====
section
/-! DEFINITION. The unit seen at its ports, cycle by cycle (R29 to R32, R170, R176, R177): a companion of the machine of
R33, not a part of it (log 8). The machine has no time; this companion takes LATENCY and RESET_STYLE as arguments
(R6), and the statements relate the two. -/

namespace Sys2Proof.Machine

/-- The input ports in one clock cycle: the level on the `rst` pin, and the request ports (`none` is `req_valid` = 0) (R29, R31). -/
structure Cycle where
  rstPin : Bool
  req    : Option Request
  deriving DecidableEq, Repr

/-- The valid bits and payload registers of the LATENCY pipeline stages, newest request first; an invalid entry has no
payload (R32, R35). -/
abbrev Stages := List (Option Request)

/-- Whether a level on the `rst` pin asserts reset, by RESET_STYLE (R31). -/
def rstAsserted (style : ResetStyle) (pin : Bool) : Bool :=
  match style.polarity with
  | .activeHigh => pin
  | .activeLow => !pin

/-- Right after reset: all valid bits 0 (R35). -/
def emptyStages (latency : Nat) : Stages := List.replicate latency none

/-- Q as the pipeline holds it, oldest first (R32). -/
def inFlight (st : Stages) : List Request := st.reverse.filterMap id

/-- The stages after one cycle: everything moves one stage on; an asserted reset clears every valid bit (R32, R170). -/
def clockStages (style : ResetStyle) (st : Stages) (c : Cycle) : Stages :=
  if rstAsserted style c.rstPin then st.map fun _ => none else (c.req :: st).dropLast

/-- The request leaving the pipeline in a cycle: the one accepted LATENCY cycles ago, in the same cycle when LATENCY is 0;
none while reset is asserted (R32, R170, R176). -/
def leaving (style : ResetStyle) (st : Stages) (c : Cycle) : Option Request :=
  if rstAsserted style c.rstPin then none else (c.req :: st).getLast (List.cons_ne_nil _ _)

/-- The response ports in a cycle; `none` is `rsp_valid` = 0 (R30, R34). -/
def clockOutput (style : ResetStyle) (st : Stages) (c : Cycle) : Option Response :=
  (leaving style st c).map answerRequest

/-- The stages after a sequence of cycles. -/
def clockRun (style : ResetStyle) : Stages → List Cycle → Stages
  | st, [] => st
  | st, c :: cs => clockRun style (clockStages style st c) cs

/-- The response ports over a sequence of cycles. -/
def clockOutputs (style : ResetStyle) : Stages → List Cycle → List (Option Response)
  | _, [] => []
  | st, c :: cs => clockOutput style st c :: clockOutputs style (clockStages style st c) cs

/-- The response ports of this unit over a sequence of cycles that begins right after reset, with its own two OPEN
parameters. -/
def unitOutputs (cs : List Cycle) : List (Option Response) :=
  clockOutputs Config.resetStyle (emptyStages Config.latency) cs

/-- The moves of R33 that one cycle amounts to: an asserted reset is the reset step; otherwise a presented request is
accepted, then a request that leaves the pipeline is answered (log 9). -/
def cycleMoves (style : ResetStyle) (st : Stages) (c : Cycle) : List Move :=
  if rstAsserted style c.rstPin then [.reset]
  else (c.req.map Move.accept).toList ++ ((leaving style st c).map fun _ => Move.respond).toList

/-- The moves of a sequence of cycles. -/
def traceMoves (style : ResetStyle) : Stages → List Cycle → List Move
  | _, [] => []
  | st, c :: cs => cycleMoves style st c ++ traceMoves style (clockStages style st c) cs

end Sys2Proof.Machine
end

