-- ==== Sys2Proof/Machine/Pipeline.lean ====
section
/-! DEFINITION. The three-stage evaluation of R98 (informative): decode and mask generation, barrel shift, mask and merge.
A second design of the response function, written in the bit-level forms the hardware evaluates (R90, R114, R115) and
with the barrel shifter of spec/93_implementation_defined.md G1. Nothing of the machine uses it (log 10). -/

namespace Sys2Proof.Machine

/-- One layer of the right barrel shifter: shift by `2^k` where bit `k` of the amount is set. -/
def shrLayer (amount : Word) (k : Nat) (x : Word) : Word := if amount.getLsbD k then x >>> 2 ^ k else x

/-- One layer of the left barrel shifter. -/
def shlLayer (amount : Word) (k : Nat) (x : Word) : Word := if amount.getLsbD k then x <<< 2 ^ k else x

/-- Six layers, and 0 where the amount is 64 or more (R98, G1). -/
def barrelShr (x amount : Word) : Word :=
  if amount.extractLsb' 6 58 = 0 then
    shrLayer amount 5 (shrLayer amount 4 (shrLayer amount 3 (shrLayer amount 2 (shrLayer amount 1 (shrLayer amount 0 x)))))
  else 0

/-- Six layers, and 0 where the amount is 64 or more (R98, G1). -/
def barrelShl (x amount : Word) : Word :=
  if amount.extractLsb' 6 58 = 0 then
    shlLayer amount 5 (shlLayer amount 4 (shlLayer amount 3 (shlLayer amount 2 (shlLayer amount 1 (shlLayer amount 0 x)))))
  else 0

/-- What stage 1 hands on: the code, FIELD_OK, MASK(w), the fits comparison, and the operands still needed. -/
structure Stage1 where
  op      : BitVec 3
  fieldOk : Bool
  mask    : Word
  fits    : Bool
  word    : Word
  lsb     : Word
  pattern : Word
  deriving DecidableEq, Repr

/-- What stage 2 hands on: the shifted word of a GET, the mask and pattern in place of a SET. -/
structure Stage2 where
  op        : BitVec 3
  fieldOk   : Bool
  mask      : Word
  fits      : Bool
  word      : Word
  shifted   : Word
  placed    : Word
  fieldMask : Word
  deriving DecidableEq, Repr

/-- Stage 1, decode and mask generation (R98). The pattern of a SET.S is masked to the width (R131). -/
def stage1 (r : Request) : Stage1 where
  op      := r.op
  fieldOk := fieldOkBits r.width r.lsb
  mask    := mask (U r.width)
  fits    := if opUnsigned r.op then fitsUBits r.val (U r.width) else fitsSBits r.val (U r.width)
  word    := r.word
  lsb     := r.lsb
  pattern := if opUnsigned r.op then r.val else r.val &&& mask (U r.width)

/-- Stage 2, barrel shift (R98). -/
def stage2 (s : Stage1) : Stage2 where
  op        := s.op
  fieldOk   := s.fieldOk
  mask      := s.mask
  fits      := s.fits
  word      := s.word
  shifted   := barrelShr s.word s.lsb
  placed    := barrelShl s.pattern s.lsb
  fieldMask := barrelShl s.mask s.lsb

/-- The fan-out of the sign bit, the bit of the field under the mask's highest 1 (R95, R98). -/
def signFill (f mask : Word) : Word :=
  if f &&& (mask ^^^ (mask >>> 1)) = 0 then f else f ||| ~~~mask

/-- Stage 3, mask and merge, and the selection of status and result in the priority of R146 (R98). -/
def stage3 (s : Stage2) : Response :=
  if opClass s.op = 3 then .error .badOp
  else if opClass s.op = 0 then .ok (zext64 s.fits)
  else if s.fieldOk = false then .error .badField
  else if opClass s.op = 1 then
    .ok (if opUnsigned s.op then s.shifted &&& s.mask else signFill (s.shifted &&& s.mask) s.mask)
  else if s.fits then .ok ((s.word &&& ~~~s.fieldMask) ||| s.placed)
  else .error .doesNotFit

/-- The response function as three stages. -/
def pipelineAnswer (r : Request) : Response := stage3 (stage2 (stage1 r))

end Sys2Proof.Machine
end

