-- ==== Sys2Proof/Safety.lean ====
section
/-! DEFINITION. The terms in which claims about the unit are made: what a step may leave behind, and what a run owes. -/

namespace Sys2Proof.Machine

/-- The state in which a response has just been emitted: it stands on the response ports and is the newest delivered
one; Q, `rst` and the schedule are as they were (R33(b), R147). -/
abbrev State.answered (s : State) (r : Response) : State :=
  { s with rsp := some r, delivered := s.delivered ++ [r] }

/-- What holds in every state a run reaches: while `rst` is asserted Q is empty and `rsp_valid` is 0 (R170), and a
response on the ports is the newest one delivered (R30, R33(b)). -/
def State.inv (s : State) : Prop :=
  (s.rst = true → s.queue = [] ∧ s.rsp = none) ∧
  (∀ r, s.rsp = some r → s.delivered.getLast? = some r)

/-- The requests presented by a schedule, in order. -/
def presented : List Move → List Request
  | [] => []
  | .accept r :: ms => r :: presented ms
  | .respond :: ms => presented ms
  | .reset :: ms => presented ms
  | .assertRst :: ms => presented ms
  | .releaseRst :: ms => presented ms

/-- A schedule in which the environment does not touch reset. -/
def noReset : List Move → Bool
  | [] => true
  | .accept _ :: ms => noReset ms
  | .respond :: ms => noReset ms
  | .reset :: _ => false
  | .assertRst :: _ => false
  | .releaseRst :: _ => false

/-- All responses that must have been delivered when the run is over, if no reset intervenes: those delivered, then one
for each request in flight, then one for each request still to be presented (R33). -/
def owed (s : State) : List Response :=
  s.delivered ++ (s.queue ++ presented s.schedule).map answerRequest

/-- `k` steps of the machine from a state; it is `Host.Core.run` of the core (Laws/Step.lean). -/
def runSteps : Nat → State → Out
  | 0, s => .next s
  | k + 1, s =>
    match step s with
    | .next t => runSteps k t
    | .fault r => .fault r
    | .refused r => .refused r

/-- R179: a run is over when the requester has presented its last request and Q is empty. Moves that present no request
may still be scheduled. -/
def State.runOver (s : State) : Prop := presented s.schedule = [] ∧ s.queue = []

/-- Steps that are enough for every scheduled move to have been made and the run to be over: two for each move to come and
one for each request in flight. -/
def stepsToEnd (s : State) : Nat := 2 * s.schedule.length + s.queue.length

/-- Bits `[l, l+w)` of two words agree. -/
def agreeInside (w l : Nat) (x y : Word) : Prop := ∀ i, l ≤ i → i < l + w → x.getLsbD i = y.getLsbD i

/-- Bits outside `[l, l+w)` of two words agree. -/
def agreeOutside (w l : Nat) (x y : Word) : Prop := ∀ i, i < l ∨ l + w ≤ i → x.getLsbD i = y.getLsbD i

/-- The SET of a signedness: SET.S for `true`, SET.U for `false`. -/
def setAs (signed : Bool) (word width lsb val : Word) : Instr :=
  if signed then .setS word width lsb val else .setU word width lsb val

/-- The GET of a signedness: GET.S for `true`, GET.U for `false`. -/
def getAs (signed : Bool) (word width lsb val : Word) : Instr :=
  if signed then .getS word width lsb val else .getU word width lsb val

/-- The FITS of a signedness: FITS.S for `true`, FITS.U for `false`. -/
def fitsAs (signed : Bool) (word width lsb val : Word) : Instr :=
  if signed then .fitsS word width lsb val else .fitsU word width lsb val

/-- Whether the value on a port fits, read by a signedness (R110, R112). -/
def valueFits (signed : Bool) (val : Word) (w : Nat) : Bool :=
  if signed then fitsS (S val) w else fitsU (U val) w

/-- `respond` is the next move: nothing is scheduled, or it is scheduled first. -/
def respondsNext (s : State) (rest : List Move) : Prop :=
  (s.schedule = [] ∧ rest = []) ∨ s.schedule = .respond :: rest

/-- A cycle in which no request is presented and `rst` is not asserted. -/
def quietCycle (style : ResetStyle) : Cycle where
  rstPin := match style.polarity with
    | .activeHigh => false
    | .activeLow => true
  req    := none

end Sys2Proof.Machine
end

