-- ==== Sys2Proof/Certificates/Slice0/Obligations.lean ====
section
/-! DEFINITION. The statements about the unit that the provers are given. Each says what a rule of spec/ says, of every
operand value and every state. `exec i s = .next (s.answered x)` is completion, result and frame in one: the next state
is `s` with `x` on the response ports and appended to the delivered responses, and Q, `rst` and the schedule as they were.
The unit has no register, flag or memory besides (R20 to R25, R40), so there is nothing else a frame could name. -/

open Sys2Proof Sys2Proof.Machine

/-! ### Encoding -/

/-- Decoding the packed request of an instruction gives the instruction back, for all eight rows and every operand
value (R60, R61): no bit of a request is dropped. -/
def Obligations.DecodeOfEncodeIsTheInstruction : Prop :=
  ∀ i : Instr, decode (encode i) = i

/-- Encoding what a packed request decodes to gives the same 259 bits back: every bit pattern is the request of exactly one
instruction (R60, R68, R71). -/
def Obligations.EncodeOfDecodeIsTheRequest : Prop :=
  ∀ b : BitVec 259, encode (decode b) = b

/-- R60: the packing as a concatenation, by bit positions and as a number; and the fields are read back from it. -/
def Obligations.PackedRequestIsTheNumberOfItsFields : Prop :=
  ∀ r : Request,
    (r.pack).toNat = r.op.toNat * 2 ^ 256 + U r.word * 2 ^ 192 + U r.width * 2 ^ 128 + U r.lsb * 2 ^ 64 + U r.val ∧
    (r.pack).extractLsb' 256 3 = r.op ∧ (r.pack).extractLsb' 192 64 = r.word ∧
    (r.pack).extractLsb' 128 64 = r.width ∧ (r.pack).extractLsb' 64 64 = r.lsb ∧ (r.pack).extractLsb' 0 64 = r.val ∧
    unpackRequest r.pack = r

/-- R61: the eight rows, the class in `op[2:1]` and the signedness in `op[0]`, whatever the other 256 bits are. -/
def Obligations.OperationCodeAloneSelectsTheRow : Prop :=
  (∀ word width lsb val : Word,
    decodeRequest ⟨0b000, word, width, lsb, val⟩ = .fitsS word width lsb val ∧
    decodeRequest ⟨0b001, word, width, lsb, val⟩ = .fitsU word width lsb val ∧
    decodeRequest ⟨0b010, word, width, lsb, val⟩ = .getS word width lsb val ∧
    decodeRequest ⟨0b011, word, width, lsb, val⟩ = .getU word width lsb val ∧
    decodeRequest ⟨0b100, word, width, lsb, val⟩ = .setS word width lsb val ∧
    decodeRequest ⟨0b101, word, width, lsb, val⟩ = .setU word width lsb val ∧
    decodeRequest ⟨0b110, word, width, lsb, val⟩ = .reserved6 word width lsb val ∧
    decodeRequest ⟨0b111, word, width, lsb, val⟩ = .reserved7 word width lsb val) ∧
  (∀ op : BitVec 3,
    (opClass op = 0b00 ↔ op = 0 ∨ op = 1) ∧ (opClass op = 0b01 ↔ op = 2 ∨ op = 3) ∧
    (opClass op = 0b10 ↔ op = 4 ∨ op = 5) ∧ (opClass op = 0b11 ↔ op = 6 ∨ op = 7) ∧
    (opUnsigned op = true ↔ op = 1 ∨ op = 3 ∨ op = 5 ∨ op = 7))

/-- Packed requests as spec/95_test_vectors.md writes them, one or more per family, decode to what they stand for. -/
def Obligations.SpecWordsDecodeToTheirInstructions : Prop :=
  decodeTableWord 264 0x0DEADBEEFDEADBEEF000000000000000200000000000003E7FFFFFFFFFFFFFFFE =
    some (.fitsS 0xDEADBEEFDEADBEEF 2 999 0xFFFFFFFFFFFFFFFE) ∧
  decodeTableWord 264 0x10000000000000000000000000000000200000000000000000000000000000003 = some (.fitsU 0 2 0 3) ∧
  decodeTableWord 264 0x20123456789ABCDEF0000000000000007000000000000001D0000000000000000 =
    some (.getS 0x0123456789ABCDEF 7 29 0) ∧
  decodeTableWord 264 0x3000000000000000A000000000000000200000000000000010000000000000000 = some (.getU 10 2 1 0) ∧
  decodeTableWord 264 0x4FFFFFFFFFFFFFFFF000000000000000C0000000000000014FFFFFFFFFFFFFFFB =
    some (.setS 0xFFFFFFFFFFFFFFFF 12 20 0xFFFFFFFFFFFFFFFB) ∧
  decodeTableWord 264 0x50000000000000000000000000000000400000000000000020000000000000003 = some (.setU 0 4 2 3) ∧
  decodeTableWord 264 0x60123456789ABCDEF000000000000000400000000000000020000000000000003 =
    some (.reserved6 0x0123456789ABCDEF 4 2 3)

/-- R64, R70: a response as a number, the code of each status, a zero result where the status is not OK, and the response
read back from its packing. -/
def Obligations.PackedResponseIsStatusThenResult : Prop :=
  (∀ x : Response, (packResponse x).toNat = (statusCode x).toNat * 2 ^ 64 + U (resultPort x) ∧
    (packResponse x).extractLsb' 64 2 = statusCode x ∧ (packResponse x).extractLsb' 0 64 = resultPort x ∧
    unpackResponse (packResponse x) = some x ∧
    (statusCode x ≠ 0 → resultPort x = 0)) ∧
  (∀ v : Word, statusCode (.ok v) = 0b00 ∧ resultPort (.ok v) = v) ∧
  statusCode (.error .doesNotFit) = 0b01 ∧ statusCode (.error .badField) = 0b10 ∧ statusCode (.error .badOp) = 0b11

/-! ### The shared datapath -/

/-- R90: FIELD_OK is `l + w ≤ 64` over the naturals; its equivalent forms, that on the port bits included; what it
implies and where it holds and fails. -/
def Obligations.FieldCheckIsExactContainment : Prop :=
  (∀ w l : Nat, (fieldOk w l = true ↔ l + w ≤ 64) ∧ (fieldOk w l = true ↔ w ≤ 64 ∧ l ≤ 64 - w) ∧
    (fieldOk w l = true → w ≤ 64 ∧ l ≤ 64)) ∧
  (∀ width lsb : Word,
    (fieldOk (U width) (U lsb) = true ↔
      width.extractLsb' 7 57 = 0 ∧ lsb.extractLsb' 7 57 = 0 ∧
      (width.extractLsb' 0 7).setWidth 8 + (lsb.extractLsb' 0 7).setWidth 8 ≤ 64#8) ∧
    fieldOk (U width) (U lsb) = fieldOkBits width lsb) ∧
  fieldOk 0 64 = true ∧ fieldOk 64 0 = true ∧ fieldOk 1 64 = false ∧ fieldOk 64 1 = false ∧ fieldOk 65 0 = false

/-- R91: MASK as a number, bit by bit, at its two corners, and as the bound of the unsigned predicate. -/
def Obligations.MaskSetsTheLowBits : Prop :=
  (∀ w : Nat, (w ≤ 64 → U (mask w) = 2 ^ w - 1) ∧ (64 < w → U (mask w) = 2 ^ 64 - 1)) ∧
  (∀ w i : Nat, i < 64 → (mask w).getLsbD i = decide (i < w)) ∧
  mask 0 = 0 ∧ mask 64 = 0xFFFFFFFFFFFFFFFF ∧
  (∀ (val : Word) (w : Nat), fitsU (U val) w = true ↔ U val ≤ U (mask w))

/-- R92: SHR as a number, bit by bit, from 64 on and at 0. -/
def Obligations.RightShifterIsTotalAndLogical : Prop :=
  ∀ (x : Word) (s : Nat),
    U (shr x s) = U x / 2 ^ s ∧
    (∀ i, i < 64 → (shr x s).getLsbD i = if i + s ≤ 63 then x.getLsbD (i + s) else false) ∧
    (64 ≤ s → shr x s = 0) ∧ shr x 0 = x

/-- R93: SHL as a number, bit by bit, from 64 on and at 0; and in its uses under FIELD_OK nothing is shifted out. -/
def Obligations.LeftShifterIsTotal : Prop :=
  ∀ (x : Word) (s : Nat),
    U (shl x s) = (U x * 2 ^ s) % 2 ^ 64 ∧
    (∀ i, i < 64 → (shl x s).getLsbD i = if s ≤ i then x.getLsbD (i - s) else false) ∧
    (64 ≤ s → shl x s = 0) ∧ shl x 0 = x ∧
    (∀ w, s + w ≤ 64 → (∀ i, w ≤ i → x.getLsbD i = false) → U (shl x s) = U x * 2 ^ s)

/-- R97: the field mask in place, under FIELD_OK, bit by bit and as a number; width 0 has none. -/
def Obligations.FieldMaskCoversTheField : Prop :=
  (∀ w l : Nat, fmask w l = shl (mask w) l) ∧
  (∀ w l : Nat, l + w ≤ 64 → U (fmask w l) = (2 ^ w - 1) * 2 ^ l ∧
    ∀ i, i < 64 → (fmask w l).getLsbD i = decide (l ≤ i ∧ i < l + w)) ∧
  (∀ l : Nat, fmask 0 l = 0)

/-- R94: EXTRACT as a number, bit by bit, in the other order (mask, then shift), and at its corners. -/
def Obligations.ExtractionMovesTheFieldDown : Prop :=
  (∀ (word : Word) (w l : Nat), l + w ≤ 64 →
    extract word w l = shr word l &&& mask w ∧
    U (extract word w l) = U word / 2 ^ l % 2 ^ w ∧
    (∀ i, i < 64 → (extract word w l).getLsbD i = if i < w then word.getLsbD (i + l) else false) ∧
    extract word w l = shr (word &&& fmask w l) l) ∧
  (∀ (word : Word) (l : Nat), l ≤ 64 → extract word 0 l = 0) ∧ (∀ word : Word, extract word 64 0 = word)

/-- R95: the sign extension of an extracted field as a number, bit by bit, at 64 and at 0; the sign bit in the unshifted word. -/
def Obligations.SignExtensionFillsWithTheTopBit : Prop :=
  (∀ (f : Word) (w : Nat), 1 ≤ w → w ≤ 64 → (∀ i, w ≤ i → f.getLsbD i = false) →
    (f.getLsbD (w - 1) = true → sext w f = f ||| ~~~(mask w)) ∧ (f.getLsbD (w - 1) = false → sext w f = f) ∧
    S (sext w f) = (U f : Int) - (if f.getLsbD (w - 1) then 2 ^ w else 0) ∧
    -(2 ^ (w - 1) : Int) ≤ S (sext w f) ∧ S (sext w f) ≤ (2 ^ (w - 1) : Int) - 1 ∧
    (∀ i, i < 64 → (sext w f).getLsbD i = if i < w then f.getLsbD i else f.getLsbD (w - 1))) ∧
  (∀ f : Word, sext 64 f = f) ∧ (∀ f : Word, sext 0 f = 0) ∧
  (∀ (word : Word) (w l : Nat), 1 ≤ w → l + w ≤ 64 → (extract word w l).getLsbD (w - 1) = word.getLsbD (l + w - 1))

/-- R96: INSERT as a formula, bit by bit and as a number, and at its corners. -/
def Obligations.InsertionReplacesTheField : Prop :=
  (∀ (word p : Word) (w l : Nat), l + w ≤ 64 → (∀ i, w ≤ i → p.getLsbD i = false) →
    insert word w l p = (word &&& ~~~(fmask w l)) ||| shl p l ∧
    (∀ i, i < 64 → (insert word w l p).getLsbD i = if l ≤ i ∧ i < l + w then p.getLsbD (i - l) else word.getLsbD i) ∧
    (U (insert word w l p) : Int) = U word - (U word / 2 ^ l % 2 ^ w : Nat) * 2 ^ l + U p * 2 ^ l) ∧
  (∀ (word : Word) (l : Nat), l ≤ 64 → insert word 0 l 0 = word) ∧ (∀ word p : Word, insert word 64 0 p = p)

/-- R114, R115: the bit-level forms of the two predicates agree with the integer forms. -/
def Obligations.FitsPredicatesOnBits : Prop :=
  (∀ (val : Word) (w : Nat), 1 ≤ w →
    (fitsS (S val) w = true ↔ ∀ i j, w - 1 ≤ i → i < 64 → w - 1 ≤ j → j < 64 → val.getLsbD i = val.getLsbD j) ∧
    (fitsS (S val) w = true ↔ val &&& ~~~(mask (w - 1)) = 0 ∨ val &&& ~~~(mask (w - 1)) = ~~~(mask (w - 1))) ∧
    (64 ≤ w → fitsS (S val) w = true)) ∧
  (∀ val : Word, fitsS (S val) 0 = true ↔ val = 0) ∧
  (∀ (val : Word) (w : Nat),
    (fitsU (U val) w = true ↔ val &&& ~~~(mask w) = 0) ∧
    (fitsU (U val) w = true ↔ ∀ i, w ≤ i → val.getLsbD i = false) ∧
    (64 ≤ w → fitsU (U val) w = true)) ∧
  (∀ val : Word, fitsU (U val) 0 = true ↔ val = 0)

/-! ### The fits family -/

/-- R110, R111: FITS.S completes on every operand and answers whether the signed value is in the range of the width; the
three cases of the predicate, and the range formula over the unbounded integers for every width from 1. -/
def Obligations.FitsSignedAnswersTheRange : Prop :=
  ∀ (word width lsb val : Word) (s : State),
    decodeRequest ⟨0, word, width, lsb, val⟩ = .fitsS word width lsb val ∧
    ∃ b : Bool, exec (.fitsS word width lsb val) s = .next (s.answered (.ok (if b then 1 else 0))) ∧
      (1 ≤ U width → U width ≤ 63 →
        (b = true ↔ -(2 : Int) ^ (U width - 1) ≤ S val ∧ S val ≤ (2 : Int) ^ (U width - 1) - 1)) ∧
      (64 ≤ U width → b = true) ∧
      (U width = 0 → (b = true ↔ S val = 0)) ∧
      (1 ≤ U width → (b = true ↔ -(2 : Int) ^ (U width - 1) ≤ S val ∧ S val ≤ (2 : Int) ^ (U width - 1) - 1)) ∧
      b = fitsS (S val) (U width)

/-- R112, R113: FITS.U completes on every operand and answers whether the unsigned value is at most `2^w - 1`, over the
unbounded integers for every width. -/
def Obligations.FitsUnsignedAnswersTheRange : Prop :=
  ∀ (word width lsb val : Word) (s : State),
    decodeRequest ⟨1, word, width, lsb, val⟩ = .fitsU word width lsb val ∧
    ∃ b : Bool, exec (.fitsU word width lsb val) s = .next (s.answered (.ok (if b then 1 else 0))) ∧
      (b = true ↔ 0 ≤ (U val : Int) ∧ (U val : Int) ≤ (2 : Int) ^ U width - 1) ∧
      (64 ≤ U width → b = true) ∧
      (U width = 0 → (b = true ↔ U val = 0)) ∧
      b = fitsU (U val) (U width)

/-- R116: neither FITS fails, for any operand values, and its result is 0 or 1. -/
def Obligations.FitsNeverFails : Prop :=
  ∀ (signed : Bool) (word width lsb val : Word) (s : State),
    ∃ x : Word, exec (fitsAs signed word width lsb val) s = .next (s.answered (.ok x)) ∧ (x = 0 ∨ x = 1)

/-- The laws (a) to (d) of spec/41_fits.md section 3: monotonic in the width; signed in `w` as unsigned in `w - 1` for
non-negative values; symmetric under `-n - 1`; `2^w` values fit a width of at most 64. -/
def Obligations.FitsLaws : Prop :=
  (∀ (n : Int) (w : Nat), -(2 : Int) ^ 63 ≤ n → n ≤ 2 ^ 63 - 1 → fitsS n w = true → fitsS n (w + 1) = true) ∧
  (∀ n w : Nat, n < 2 ^ 64 → fitsU n w = true → fitsU n (w + 1) = true) ∧
  (∀ n w : Nat, n ≤ 2 ^ 63 - 1 → 1 ≤ w → (fitsS n w = true ↔ fitsU n (w - 1) = true)) ∧
  (∀ (n : Int) (w : Nat), -(2 : Int) ^ 63 ≤ n → n ≤ 2 ^ 63 - 1 → 1 ≤ w → (fitsS n w = true ↔ fitsS (-n - 1) w = true)) ∧
  (∀ w : Nat, w ≤ 64 →
    ((Finset.Ico (-(2 : Int) ^ 63) (2 ^ 63)).filter fun n => fitsS n w = true).card = 2 ^ w ∧
    ((Finset.range (2 ^ 64)).filter fun n => fitsU n w = true).card = 2 ^ w)

/-! ### The get family -/

/-- R121: GET.U completes on every operand: the field at position 0 with zeros above it, or BAD_FIELD. -/
def Obligations.GetUnsignedReturnsTheField : Prop :=
  ∀ (word width lsb val : Word) (s : State),
    decodeRequest ⟨3, word, width, lsb, val⟩ = .getU word width lsb val ∧
    (U lsb + U width ≤ 64 →
      ∃ r : Word, exec (.getU word width lsb val) s = .next (s.answered (.ok r)) ∧
        r = extract word (U width) (U lsb) ∧
        U r = U word / 2 ^ U lsb % 2 ^ U width ∧ (∀ i, U width ≤ i → r.getLsbD i = false)) ∧
    (64 < U lsb + U width → exec (.getU word width lsb val) s = .next (s.answered (.error .badField)))

/-- R120: GET.S completes on every operand: the field read as a two's-complement number of its width, or BAD_FIELD. -/
def Obligations.GetSignedReturnsTheSignedField : Prop :=
  ∀ (word width lsb val : Word) (s : State),
    decodeRequest ⟨2, word, width, lsb, val⟩ = .getS word width lsb val ∧
    (U lsb + U width ≤ 64 →
      ∃ r : Word, exec (.getS word width lsb val) s = .next (s.answered (.ok r)) ∧
        r = sext (U width) (extract word (U width) (U lsb)) ∧
        (1 ≤ U width → S r = (U word / 2 ^ U lsb % 2 ^ U width : Nat) -
          (if (U word / 2 ^ U lsb % 2 ^ U width).testBit (U width - 1) then (2 : Int) ^ U width else 0)) ∧
        (U width = 0 → r = 0)) ∧
    (64 < U lsb + U width → exec (.getS word width lsb val) s = .next (s.answered (.error .badField)))

/-- R122: on the same operands the two gets differ only in the fill. -/
def Obligations.GetPairDiffersOnlyInTheFill : Prop :=
  ∀ (word width lsb val : Word) (s : State),
    (U lsb + U width ≤ 64 →
      ∃ ru rs : Word, exec (.getU word width lsb val) s = .next (s.answered (.ok ru)) ∧
        exec (.getS word width lsb val) s = .next (s.answered (.ok rs)) ∧
        (1 ≤ U width →
          rs = sext (U width) ru ∧
          (∀ i, i < U width → rs.getLsbD i = ru.getLsbD i) ∧
          (∀ i, U width ≤ i → i < 64 → ru.getLsbD i = false ∧ rs.getLsbD i = ru.getLsbD (U width - 1)) ∧
          (U ru < 2 ^ (U width - 1) → S rs = U ru) ∧
          (2 ^ (U width - 1) ≤ U ru → S rs = (U ru : Int) - 2 ^ U width)) ∧
        (U width = 64 → rs = ru) ∧ (U width = 0 → rs = 0 ∧ ru = 0)) ∧
    (64 < U lsb + U width →
      exec (.getU word width lsb val) s = .next (s.answered (.error .badField)) ∧
      exec (.getS word width lsb val) s = .next (s.answered (.error .badField)))

/-- R123: what is got fits the width it was got with, for every word and every contained descriptor. -/
def Obligations.WhatIsGotFits : Prop :=
  ∀ (word width lsb val : Word) (s : State), U lsb + U width ≤ 64 →
    (∃ r : Word, exec (.getS word width lsb val) s = .next (s.answered (.ok r)) ∧ fitsS (S r) (U width) = true) ∧
    (∃ r : Word, exec (.getU word width lsb val) s = .next (s.answered (.ok r)) ∧ fitsU (U r) (U width) = true)

/-- R124: words that agree inside the field get the same response, and the get leaves all else as it was. -/
def Obligations.GetReadsItsFieldOnly : Prop :=
  ∀ (signed : Bool) (x y width lsb val : Word) (s : State), U lsb + U width ≤ 64 →
    agreeInside (U width) (U lsb) x y →
    ∃ r : Word, exec (getAs signed x width lsb val) s = .next (s.answered (.ok r)) ∧
      exec (getAs signed y width lsb val) s = .next (s.answered (.ok r))

/-! ### The set family -/

/-- R130: SET.U completes on every operand: BAD_FIELD, else DOES_NOT_FIT, else the word with the field's bits those of the value. -/
def Obligations.SetUnsignedReplacesTheField : Prop :=
  ∀ (word width lsb val : Word) (s : State),
    decodeRequest ⟨5, word, width, lsb, val⟩ = .setU word width lsb val ∧
    (64 < U lsb + U width → exec (.setU word width lsb val) s = .next (s.answered (.error .badField))) ∧
    (U lsb + U width ≤ 64 → fitsU (U val) (U width) = false →
      exec (.setU word width lsb val) s = .next (s.answered (.error .doesNotFit))) ∧
    (U lsb + U width ≤ 64 → fitsU (U val) (U width) = true →
      ∃ r : Word, exec (.setU word width lsb val) s = .next (s.answered (.ok r)) ∧
        r = insert word (U width) (U lsb) val ∧
        ∀ i, i < 64 → r.getLsbD i =
          if U lsb ≤ i ∧ i < U lsb + U width then val.getLsbD (i - U lsb) else word.getLsbD i)

/-- R131: SET.S completes on every operand: BAD_FIELD, else DOES_NOT_FIT, else the word with the field's bits the low bits of
the value's pattern, which is `v mod 2^w`. -/
def Obligations.SetSignedReplacesTheField : Prop :=
  ∀ (word width lsb val : Word) (s : State),
    decodeRequest ⟨4, word, width, lsb, val⟩ = .setS word width lsb val ∧
    (64 < U lsb + U width → exec (.setS word width lsb val) s = .next (s.answered (.error .badField))) ∧
    (U lsb + U width ≤ 64 → fitsS (S val) (U width) = false →
      exec (.setS word width lsb val) s = .next (s.answered (.error .doesNotFit))) ∧
    (U lsb + U width ≤ 64 → fitsS (S val) (U width) = true →
      ∃ r p : Word, exec (.setS word width lsb val) s = .next (s.answered (.ok r)) ∧
        p = val &&& mask (U width) ∧ r = insert word (U width) (U lsb) p ∧
        (U p : Int) = S val % (2 : Int) ^ U width ∧
        (0 ≤ S val → p = val) ∧ (S val < 0 → (U p : Int) = S val + (2 : Int) ^ U width) ∧
        ∀ i, i < 64 → r.getLsbD i =
          if U lsb ≤ i ∧ i < U lsb + U width then val.getLsbD (i - U lsb) else word.getLsbD i)

/-- R133: a successful set changes its field and nothing else; an unsuccessful one produces no word. -/
def Obligations.SetChangesItsFieldOnly : Prop :=
  ∀ (signed : Bool) (word width lsb val : Word) (s : State),
    (U lsb + U width ≤ 64 → valueFits signed val (U width) = true →
      ∃ r : Word, exec (setAs signed word width lsb val) s = .next (s.answered (.ok r)) ∧
        (r ^^^ word) &&& ~~~(fmask (U width) (U lsb)) = 0 ∧ agreeOutside (U width) (U lsb) r word ∧
        (U width = 0 → r = word)) ∧
    (¬(U lsb + U width ≤ 64 ∧ valueFits signed val (U width) = true) →
      ∃ c : Condition, exec (setAs signed word width lsb val) s = .next (s.answered (.error c)))

/-- Clear then insert (spec/43_set.md section 3): after a successful set the field holds the value's bits whatever the word
held, and where the field's old bits are 0 the result is the old word OR the placed value. The choice is the spec's own (D12). -/
def Obligations.SetOverwritesWhateverTheFieldHeld : Prop :=
  ∀ (signed : Bool) (word width lsb val : Word) (s : State), U lsb + U width ≤ 64 → valueFits signed val (U width) = true →
    ∃ r : Word, exec (setAs signed word width lsb val) s = .next (s.answered (.ok r)) ∧
      extract r (U width) (U lsb) = val &&& mask (U width) ∧
      (extract word (U width) (U lsb) = 0 → r = word ||| shl (val &&& mask (U width)) (U lsb))

/-- R134: what is set is got back, for every word; and setting back what was got restores the word. -/
def Obligations.SetThenGetRoundTrips : Prop :=
  (∀ (signed : Bool) (word width lsb val any : Word) (s t : State), U lsb + U width ≤ 64 →
    valueFits signed val (U width) = true →
    ∃ r : Word, exec (setAs signed word width lsb val) s = .next (s.answered (.ok r)) ∧
      exec (getAs signed r width lsb any) t = .next (t.answered (.ok val))) ∧
  (∀ (signed : Bool) (word width lsb any : Word) (s t : State), U lsb + U width ≤ 64 →
    ∃ v : Word, exec (getAs signed word width lsb any) s = .next (s.answered (.ok v)) ∧
      exec (setAs signed word width lsb v) t = .next (t.answered (.ok word)))

/-- R51: a get is a function of its own bits, a successful set agrees with the word outside its field, and a set through one
descriptor leaves what a get through a disjoint one returns. -/
def Obligations.DisjointFieldsAreIndependent : Prop :=
  (∀ (signed : Bool) (x y width lsb any : Word) (s : State), U lsb + U width ≤ 64 →
    agreeInside (U width) (U lsb) x y →
    exec (getAs signed x width lsb any) s = exec (getAs signed y width lsb any) s) ∧
  (∀ (setSigned getSigned : Bool) (word width lsb val width' lsb' any : Word) (s t : State),
    U lsb + U width ≤ 64 → valueFits setSigned val (U width) = true →
    ∃ r : Word, exec (setAs setSigned word width lsb val) s = .next (s.answered (.ok r)) ∧
      agreeOutside (U width) (U lsb) r word ∧
      (U lsb' + U width' ≤ 64 → U lsb + U width ≤ U lsb' ∨ U lsb' + U width' ≤ U lsb →
        exec (getAs getSigned r width' lsb' any) t = exec (getAs getSigned word width' lsb' any) t))

/-- R135: the relations (a) to (e) between the two sets. -/
def Obligations.RelationsBetweenTheTwoSets : Prop :=
  (∀ (word width lsb val : Word) (s : State), 1 ≤ U width → 0 ≤ S val → S val ≤ (2 : Int) ^ (U width - 1) - 1 →
    exec (.setS word width lsb val) s = exec (.setU word width lsb val) s) ∧
  (∀ (word width lsb val : Word) (s : State), U lsb + U width ≤ 64 → fitsS (S val) (U width) = true →
    exec (.setS word width lsb val) s = exec (.setU word width lsb (bits64 (S val % (2 : Int) ^ U width))) s) ∧
  (∀ (val : Word) (w : Nat),
    (1 ≤ w → w ≤ 63 → 2 ^ (w - 1) ≤ U val → U val ≤ 2 ^ w - 1 →
      fitsU (U val) w = true ∧ fitsS (S val) w = false) ∧
    (S val < 0 → w < 64 → fitsU (U val) w = false)) ∧
  (∀ (signed signed' : Bool) (word width lsb val width' lsb' val' : Word) (s : State),
    U lsb + U width ≤ 64 → U lsb' + U width' ≤ 64 →
    U lsb + U width ≤ U lsb' ∨ U lsb' + U width' ≤ U lsb →
    valueFits signed val (U width) = true → valueFits signed' val' (U width') = true →
    ∃ x y r : Word, exec (setAs signed word width lsb val) s = .next (s.answered (.ok x)) ∧
      exec (setAs signed' x width' lsb' val') s = .next (s.answered (.ok r)) ∧
      exec (setAs signed' word width' lsb' val') s = .next (s.answered (.ok y)) ∧
      exec (setAs signed y width lsb val) s = .next (s.answered (.ok r))) ∧
  (∀ (signed signed' : Bool) (word width lsb a b : Word) (s : State), U lsb + U width ≤ 64 →
    valueFits signed a (U width) = true →
    ∃ x : Word, exec (setAs signed word width lsb a) s = .next (s.answered (.ok x)) ∧
      exec (setAs signed' x width lsb b) s = exec (setAs signed' word width lsb b) s)

/-! ### Error conditions -/

/-- The two reserved codes (spec/30_encoding.md section 4): a request with either is accepted like any other, decodes by its
code alone, and is answered BAD_OP in its place with nothing else happening. How the moves are scheduled is the model's (log 1). -/
def Obligations.ReservedCodesAreAnsweredBadOp : Prop :=
  (∀ (word width lsb val : Word) (s : State),
    exec (.reserved6 word width lsb val) s = .next (s.answered (.error .badOp)) ∧
    exec (.reserved7 word width lsb val) s = .next (s.answered (.error .badOp))) ∧
  (∀ (r : Request) (s : State) (rest : List Move), opClass r.op = 0b11 → s.rst = false →
    s.schedule = .accept r :: rest →
    step s = .next { s with queue := s.queue ++ [r], rsp := none, schedule := rest }) ∧
  (∀ (r : Request) (q : List Request) (s : State) (rest : List Move), opClass r.op = 0b11 → s.rst = false →
    s.queue = r :: q → respondsNext s rest →
    step s = .next { s with queue := q, rsp := some (.error .badOp), delivered := s.delivered ++ [.error .badOp],
                            schedule := rest })

/-- R141: DOES_NOT_FIT is answered exactly when the descriptor is contained and the FITS of the same signedness, on the same
value and width, answers 0. -/
def Obligations.DoesNotFitExactlyWhenFitsAnswersZero : Prop :=
  ∀ (signed : Bool) (word width lsb val any any' : Word) (s t : State),
    exec (setAs signed word width lsb val) s = .next (s.answered (.error .doesNotFit)) ↔
      U lsb + U width ≤ 64 ∧ valueFits signed val (U width) = false ∧
      exec (fitsAs signed any width any' val) t = .next (t.answered (.ok 0))

/-- R142: BAD_FIELD is answered exactly by a GET or SET whose descriptor is not contained in the word, `l + w > 64` over the
unbounded integers; that includes every width and every lsb above 64; a FITS cannot raise it. -/
def Obligations.BadFieldExactlyWhenNotContained : Prop :=
  (∀ (i : Instr) (s : State), exec i s = .next (s.answered (.error .badField)) ↔ i.contained = false) ∧
  (∀ (signed : Bool) (word width lsb val : Word),
    ((getAs signed word width lsb val).contained = false ↔ 64 < U lsb + U width) ∧
    ((setAs signed word width lsb val).contained = false ↔ 64 < U lsb + U width) ∧
    (fitsAs signed word width lsb val).contained = true) ∧
  (∀ (signed : Bool) (word width lsb val : Word) (s : State), 64 < U width ∨ 64 < U lsb →
    exec (getAs signed word width lsb val) s = .next (s.answered (.error .badField)) ∧
    exec (setAs signed word width lsb val) s = .next (s.answered (.error .badField)))

/-- R143: BAD_OP is answered exactly to the operation codes 6 and 7, whatever the operands. -/
def Obligations.BadOpExactlyForReservedCodes : Prop :=
  ∀ (r : Request) (s : State),
    (exec (decodeRequest r) s = .next (s.answered (.error .badOp)) ↔ r.op = 6 ∨ r.op = 7) ∧
    ((decodeRequest r).wf = false ↔ r.op = 6 ∨ r.op = 7)

/-- R146: where several conditions apply exactly one is reported, BAD_OP before BAD_FIELD before DOES_NOT_FIT, for every
request; whatever else is in flight or has been answered plays no part. The example is the rule's. -/
def Obligations.ConditionsAreReportedInPriority : Prop :=
  (∀ r : Request, ∃ x : Response, (∀ s : State, exec (decodeRequest r) s = .next (s.answered x)) ∧
    (opClass r.op = 0b11 → x = .error .badOp) ∧
    (opClass r.op = 0b01 ∨ opClass r.op = 0b10 → 64 < U r.lsb + U r.width → x = .error .badField) ∧
    (opClass r.op = 0b10 → U r.lsb + U r.width ≤ 64 → valueFits (!opUnsigned r.op) r.val (U r.width) = false →
      x = .error .doesNotFit) ∧
    (opClass r.op ≠ 0b11 →
      (opClass r.op = 0b01 ∨ opClass r.op = 0b10 → U r.lsb + U r.width ≤ 64) →
      (opClass r.op = 0b10 → valueFits (!opUnsigned r.op) r.val (U r.width) = true) →
      ∃ v : Word, x = .ok v)) ∧
  (∀ s : State, exec (decodeRequest ⟨5, 0, 2, 63, 4⟩) s = .next (s.answered (.error .badField)))

/-- R150: which operation reports which status, for all operand values. -/
def Obligations.StatusMatrixIsExhaustive : Prop :=
  ∀ (signed : Bool) (word width lsb val : Word) (s : State),
    (∃ x, exec (fitsAs signed word width lsb val) s = .next (s.answered x) ∧ statusCode x = 0) ∧
    (∃ x, exec (getAs signed word width lsb val) s = .next (s.answered x) ∧
      (statusCode x = 0 ↔ U lsb + U width ≤ 64) ∧ statusCode x ≠ 1 ∧
      (statusCode x = 2 ↔ 64 < U lsb + U width) ∧ statusCode x ≠ 3) ∧
    (∃ x, exec (setAs signed word width lsb val) s = .next (s.answered x) ∧
      (statusCode x = 0 ↔ U lsb + U width ≤ 64 ∧ valueFits signed val (U width) = true) ∧
      (statusCode x = 1 ↔ U lsb + U width ≤ 64 ∧ valueFits signed val (U width) = false) ∧
      (statusCode x = 2 ↔ 64 < U lsb + U width) ∧ statusCode x ≠ 3) ∧
    (∃ x, exec (.reserved6 word width lsb val) s = .next (s.answered x) ∧ statusCode x = 3) ∧
    (∃ x, exec (.reserved7 word width lsb val) s = .next (s.answered x) ∧ statusCode x = 3)

/-- R63: operands an operation does not read do not matter: requests that agree on the read ones get the same response. -/
def Obligations.UnreadOperandsDoNotMatter : Prop :=
  ∀ (r₁ r₂ : Request) (s : State), agreeOnReadOperands r₁ r₂ →
    ∃ x : Response, exec (decodeRequest r₁) s = .next (s.answered x) ∧ exec (decodeRequest r₂) s = .next (s.answered x)

/-- Every instruction completes in every state with one response, its own, and touches nothing else; the response is a
function of the instruction alone (spec/10_state.md section 4, spec/60_exceptions.md section 4). -/
def Obligations.EveryInstructionAnswersOnce : Prop :=
  ∀ (i : Instr) (s : State), exec i s = .next (s.answered (answer i))

/-! ### The machine -/

/-- A step runs the decoded instruction: where *respond* is the next move, `rst` is not asserted and `r` is the oldest request
in flight, the step is `exec` of what `r` decodes to, with `r` off the queue and the move off the schedule (the schedule is
the model's, log 1). -/
def Obligations.StepRunsTheDecodedRequest : Prop :=
  ∀ (r : Request) (q : List Request) (s : State) (rest : List Move),
    s.rst = false → s.queue = r :: q → respondsNext s rest →
    step s = exec (decodeRequest r) { s with queue := q, schedule := rest }

/-- A packed request placed by `withFetchWord` is what the very next step runs, in any state: nothing else of the state is
disturbed but `rst`, which is released. The placing is the model's (log 5). -/
def Obligations.StepRunsThePlacedWord : Prop :=
  ∀ (s : State) (w : Nat) (i : Instr), decodeTableWord 264 w = some i →
    step (s.withFetchWord 264 w) = exec i { s with rst := false }

/-- The accept step (spec/10_state.md section 4): outside reset any request at all is put at the end of Q and no response is
emitted; while reset is asserted it is ignored. The schedule and the level of `rst` are the model's form (log 1, log 2). -/
def Obligations.AcceptAppendsToTheQueue : Prop :=
  ∀ (r : Request) (s : State) (rest : List Move), s.schedule = .accept r :: rest →
    (s.rst = false → step s = .next { s with queue := s.queue ++ [r], rsp := none, schedule := rest }) ∧
    (s.rst = true → step s = .next { s with queue := [], rsp := none, schedule := rest })

/-- Reset empties Q with no response; while `rst` is asserted no request is accepted,
`rsp_valid` is 0 and Q is empty after every step; nothing already delivered is lost
(spec/70_reset_and_hazards.md section 1). The reset step as assertion and release,
and the level of `rst` beside it, are the model's form (log 2). -/
def Obligations.ResetDropsWhatIsInFlight : Prop :=
  (∀ (s : State) (rest : List Move), s.schedule = .reset :: rest →
    step s = .next { s with rst := false, queue := [], rsp := none, schedule := rest }) ∧
  (∀ (s : State) (rest : List Move), s.schedule = .assertRst :: rest →
    step s = .next { s with rst := true, queue := [], rsp := none, schedule := rest }) ∧
  (∀ s : State, s.rst = true →
    ∃ t : State, step s = .next t ∧ t.queue = [] ∧ t.rsp = none ∧ t.delivered = s.delivered ∧
      ((∀ rest, s.schedule ≠ .reset :: rest ∧ s.schedule ≠ .releaseRst :: rest) → t.rst = true))

/-- The unit never becomes stuck and never halts: every state has a next state (spec/10_state.md section 4). -/
def Obligations.EveryStateHasANextState : Prop :=
  ∀ s : State, ∃ t : State, step s = .next t

/-- Every step from a state that meets the invariant leads to one that meets it: under an asserted reset Q is empty and
`rsp_valid` is 0, and a response on the ports is the newest one delivered (the delivered list is the model's, log 3). -/
def Obligations.StepKeepsTheInvariant : Prop :=
  ∀ s t : State, s.inv → step s = .next t → t.inv

/-- The state right after reset meets the invariant, with Q empty and `rsp_valid` 0 (spec/10_state.md section 5,
spec/70_reset_and_hazards.md section 1). That `rst` is released and the model's own fields are empty is its choice (log 5). -/
def Obligations.ResetStateMeetsTheInvariant : Prop :=
  State.reset.inv ∧ State.reset.queue = [] ∧ State.reset.rsp = none ∧ State.reset.rst = false

/-- One response for each accepted request, in the order of acceptance, and none without a request: outside reset a step
keeps what is owed, namely the responses delivered followed by those of the requests in flight and to be presented
(spec/10_state.md section 4; the delivered list and the schedule are the model's, log 1 and log 3). -/
def Obligations.StepKeepsWhatIsOwed : Prop :=
  ∀ s t : State, s.rst = false → noReset s.schedule = true → step s = .next t →
    t.rst = false ∧ noReset t.schedule = true ∧ owed t = owed s

/-- A run without reset is over, with no move left, after at most two steps a move and one a request in flight, and then
exactly what was owed has been delivered, in order (spec/70_reset_and_hazards.md section 5; fairness of spec/10_state.md
section 4). The schedule and the delivered list are the model's (log 1, log 3). -/
def Obligations.RunDeliversExactlyWhatIsOwed : Prop :=
  ∀ s : State, s.rst = false → noReset s.schedule = true →
    ∃ t : State, runSteps (stepsToEnd s) s = .next t ∧ t.runOver ∧ t.schedule = [] ∧ t.delivered = owed s

/-- Requests in flight at a reset are never answered and those presented after it are answered as ever
(spec/70_reset_and_hazards.md section 1; the sequence S4 of spec/95_test_vectors.md in general). The schedule and
the delivered list are the model's (log 1, log 3). -/
def Obligations.RunAfterResetAnswersOnlyLaterRequests : Prop :=
  ∀ (s : State) (rest : List Move), s.schedule = .reset :: rest → noReset rest = true →
    ∃ t : State, runSteps (stepsToEnd s) s = .next t ∧ t.runOver ∧ t.schedule = [] ∧
      t.delivered = s.delivered ++ (presented rest).map answerRequest

/-- Whatever the moves to come, those of reset included, the run is over, with no move left, after the bounded number of
steps; and once a run is over it stays over and delivers nothing more, whatever moves that present no request are still to
come: the unit needs no closing action (spec/70_reset_and_hazards.md section 5). The schedule and the delivered list are the
model's (log 1, log 3). -/
def Obligations.EveryRunIsOver : Prop :=
  ∀ s : State,
    (∃ t : State, runSteps (stepsToEnd s) s = .next t ∧ t.runOver ∧ t.schedule = []) ∧
    (s.runOver → ∀ k : Nat, ∃ u : State, runSteps k s = .next u ∧ u.runOver ∧ u.delivered = s.delivered)

/-- Two requests with equal payloads get equal responses, whatever else the two states hold (spec/10_state.md section 4).
That the schedule says when they are answered is the model's form (log 1). -/
def Obligations.EqualRequestsGetEqualResponses : Prop :=
  ∀ (r : Request) (q₁ q₂ : List Request) (s₁ s₂ : State) (m₁ m₂ : List Move),
    s₁.rst = false → s₂.rst = false → s₁.queue = r :: q₁ → s₂.queue = r :: q₂ →
    respondsNext s₁ m₁ → respondsNext s₂ m₂ →
    ∃ (x : Response) (t₁ t₂ : State), step s₁ = .next t₁ ∧ step s₂ = .next t₂ ∧ t₁.rsp = some x ∧ t₂.rsp = some x ∧
      x = answerRequest r

/-- The first request after reset may be any request and is answered as ever, with no initialisation
(spec/70_reset_and_hazards.md sections 1 and 2; the sequence S5 of spec/95_test_vectors.md in general). The state right after
reset and the schedule are the model's form (log 1, log 5). -/
def Obligations.FirstRequestAfterResetIsAnswered : Prop :=
  ∀ r : Request,
    runSteps 2 { State.reset with schedule := [.accept r] } =
      .next { State.reset with rsp := some (answerRequest r), delivered := [answerRequest r] }

/-! ### The ports, cycle by cycle -/

/-- Timing (spec/70_reset_and_hazards.md section 4), on the model's clocked companion (log 8): for every LATENCY and
RESET_STYLE, the response to a request presented in cycle `t` of a run without reset is on the response ports in cycle
`t + LATENCY`, in the same cycle when LATENCY is 0; a cycle that presents nothing has no response there; and before cycle
LATENCY there is none. -/
def Obligations.ResponseComesLatencyCyclesLater : Prop :=
  ∀ (style : ResetStyle) (latency : Nat) (cs : List Cycle),
    (∀ c ∈ cs, rstAsserted style c.rstPin = false) →
    (∀ t, t + latency < cs.length →
      (clockOutputs style (emptyStages latency) cs)[t + latency]? = (cs[t]?).map fun c => c.req.map answerRequest) ∧
    (∀ t, t < latency → t < cs.length → (clockOutputs style (emptyStages latency) cs)[t]? = some none)

/-- Throughput and depth (spec/70_reset_and_hazards.md section 4), on the clocked companion (log 8): in every cycle outside
reset what is presented enters the pipeline and what leaves it is answered in that cycle, with nothing held back; after any
run at most LATENCY requests are in flight; and each cycle has at most one response. -/
def Obligations.AtMostLatencyInFlight : Prop :=
  ∀ (style : ResetStyle) (latency : Nat) (cs : List Cycle),
    (∀ c : Cycle, rstAsserted style c.rstPin = false →
      clockStages style (clockRun style (emptyStages latency) cs) c ++
          [leaving style (clockRun style (emptyStages latency) cs) c] =
        c.req :: clockRun style (emptyStages latency) cs ∧
      clockOutput style (clockRun style (emptyStages latency) cs) c =
        (leaving style (clockRun style (emptyStages latency) cs) c).map answerRequest) ∧
    (clockRun style (emptyStages latency) cs).length = latency ∧
    (inFlight (clockRun style (emptyStages latency) cs)).length ≤ latency ∧
    (clockOutputs style (emptyStages latency) cs).length = cs.length

/-- An asserted reset at the ports: no response in that cycle, every valid bit cleared, and the unit goes on as right after
reset (spec/70_reset_and_hazards.md section 1, spec/10_state.md section 5), on the clocked companion (log 8). That a cycle with
`rst` asserted has no response and accepts nothing, alike for synchronous and asynchronous reset, is the model's choice
(log 9). -/
def Obligations.AssertedResetClearsThePipeline : Prop :=
  ∀ (style : ResetStyle) (st : Stages) (c : Cycle) (cs : List Cycle), rstAsserted style c.rstPin = true →
    clockOutput style st c = none ∧ clockStages style st c = emptyStages st.length ∧
    clockOutputs style st (c :: cs) = none :: clockOutputs style (emptyStages st.length) cs

/-- The clocked unit refines the machine of spec/10_state.md section 4: a machine whose Q is what the pipeline holds, and whose
schedule is the moves the cycles amount to, delivers exactly the responses of the ports, in order, and ends with the
pipeline's requests in Q. For every LATENCY, RESET_STYLE and trace, resets included. The companion and the moves of a cycle
are the model's (log 8, log 9). -/
def Obligations.ClockedUnitRefinesTheMachine : Prop :=
  ∀ (style : ResetStyle) (st : Stages) (cs : List Cycle) (s : State),
    s.rst = false → s.queue = inFlight st → s.schedule = traceMoves style st cs →
    ∃ t : State, runSteps (traceMoves style st cs).length s = .next t ∧
      t.rst = false ∧ t.schedule = [] ∧ t.queue = inFlight (clockRun style st cs) ∧
      t.delivered = s.delivered ++ (clockOutputs style st cs).filterMap id

/-- No response depends on LATENCY or RESET_STYLE: in a run without reset that is given LATENCY quiet cycles to drain, the
responses are those of the requests presented, in order, which the right side says without either parameter
(spec/00_scope.md section 3; on the clocked companion, log 8). -/
def Obligations.ResponsesDoNotDependOnLatency : Prop :=
  ∀ (style : ResetStyle) (latency : Nat) (cs : List Cycle),
    (∀ c ∈ cs, rstAsserted style c.rstPin = false) →
    (clockOutputs style (emptyStages latency) (cs ++ List.replicate latency (quietCycle style))).filterMap id =
      (cs.filterMap fun c => c.req).map answerRequest

/-! ### The second design of the response function -/

/-- The six-layer barrel shifters with the forced zero compute the shifts of the datapath for every amount
(spec/40_datapath.md section 7, spec/93_implementation_defined.md G1). -/
def Obligations.BarrelShiftersComputeTheShifts : Prop :=
  ∀ x amount : Word, barrelShr x amount = shr x (U amount) ∧ barrelShl x amount = shl x (U amount)

/-- The three-stage evaluation gives every request the response the instruction rules give it
(spec/40_datapath.md section 7; the stages' contents are the model's rendering, log 10). -/
def Obligations.PipelineComputesTheResponse : Prop :=
  ∀ r : Request, pipelineAnswer r = answerRequest r
end

