-- ==== Sys2Proof/Laws/Datapath.lean ====
section
/-! SUPPORT. The datapath functions bit by bit (R91 to R97), each unfolded once here and nowhere else. -/

namespace Sys2Proof.Machine

theorem fieldOk_iff (w l : Nat) : fieldOk w l = true ↔ l + w ≤ 64 := by simp [fieldOk]

theorem shr_eq_ushiftRight (x : Word) (s : Nat) : shr x s = x >>> s := by
  unfold shr
  split
  · rename_i h
    exact (BitVec.ushiftRight_eq_zero h).symm
  · rfl

theorem shl_eq_shiftLeft (x : Word) (s : Nat) : shl x s = x <<< s := by
  unfold shl
  split
  · rename_i h
    exact (BitVec.shiftLeft_eq_zero h).symm
  · rfl

theorem mask_getLsbD (w i : Nat) : (mask w).getLsbD i = (decide (i < w) && decide (i < 64)) := by
  unfold mask
  split
  · rename_i h
    simp only [BitVec.getLsbD_allOnes]
    by_cases hi : i < 64 <;> simp [hi]; omega
  · simp only [BitVec.getLsbD_ofNat, Nat.testBit_two_pow_sub_one]
    exact Bool.and_comm _ _

theorem shr_getLsbD (x : Word) (s i : Nat) : (shr x s).getLsbD i = x.getLsbD (s + i) := by
  rw [shr_eq_ushiftRight, BitVec.getLsbD_ushiftRight]

theorem shl_getLsbD (x : Word) (s i : Nat) :
    (shl x s).getLsbD i = (decide (i < 64) && !decide (i < s) && x.getLsbD (i - s)) := by
  rw [shl_eq_shiftLeft, BitVec.getLsbD_shiftLeft]

theorem fmask_getLsbD (w l i : Nat) :
    (fmask w l).getLsbD i = (decide (l ≤ i) && decide (i < l + w) && decide (i < 64)) := by
  unfold fmask
  rw [shl_getLsbD, mask_getLsbD, Bool.eq_iff_iff]
  simp only [Bool.and_eq_true, Bool.not_eq_true', decide_eq_true_eq, decide_eq_false_iff_not]
  omega

theorem extract_getLsbD (word : Word) (w l i : Nat) :
    (extract word w l).getLsbD i = (decide (i < w) && word.getLsbD (l + i)) := by
  unfold extract
  rw [BitVec.getLsbD_and, shr_getLsbD, mask_getLsbD]
  by_cases hi : i < 64
  · simp [hi, Bool.and_comm]
  · have : word.getLsbD (l + i) = false := BitVec.getLsbD_of_ge _ _ (by omega)
    simp [this]

theorem insert_getLsbD (word p : Word) (w l i : Nat) :
    (insert word w l p).getLsbD i =
      (word.getLsbD i && !(decide (l ≤ i) && decide (i < l + w)) ||
        decide (i < 64) && decide (l ≤ i) && p.getLsbD (i - l)) := by
  unfold insert
  rw [BitVec.getLsbD_or, BitVec.getLsbD_and, BitVec.getLsbD_not, fmask_getLsbD, shl_getLsbD]
  by_cases hi : i < 64
  · simp [hi]
    congr 2
    rw [Bool.eq_iff_iff]; simp
  · have : word.getLsbD i = false := BitVec.getLsbD_of_ge _ _ (by omega)
    simp [this, hi]

theorem sext_getLsbD (w : Nat) (f : Word) (i : Nat) (hw : 1 ≤ w) (hf : ∀ j, w ≤ j → f.getLsbD j = false) :
    (sext w f).getLsbD i = if i < w then f.getLsbD i else (decide (i < 64) && f.getLsbD (w - 1)) := by
  unfold sext
  rw [if_neg (by omega)]
  by_cases hs : f.getLsbD (w - 1) = true
  · rw [if_pos hs, BitVec.getLsbD_or, BitVec.getLsbD_not, mask_getLsbD, hs]
    by_cases hi : i < w
    · simp only [hi, if_true]
      by_cases h64 : i < 64
      · simp [h64]
      · simp [h64]
    · simp only [hi, if_false]
      rw [hf i (by omega)]
      by_cases h64 : i < 64 <;> simp [h64]
  · rw [if_neg hs]
    by_cases hi : i < w
    · simp [hi]
    · simp only [hi, if_false]
      rw [hf i (by omega)]
      simp only [Bool.not_eq_true] at hs
      simp [hs]

/-- The unsigned predicate on a port value, over the unbounded naturals for every width (R112). -/
theorem fitsU_iff_le (n w : Nat) (h : n < 2 ^ 64) : fitsU n w = true ↔ n ≤ 2 ^ w - 1 := by
  unfold fitsU
  split
  · have : 2 ^ 64 ≤ 2 ^ w := Nat.pow_le_pow_right (by decide) (by omega)
    simp; omega
  · simp

/-- The signed predicate on a port value, over the unbounded integers for every width from 1 (R110). -/
theorem fitsS_iff_range (n : Int) (w : Nat) (h₁ : -(2 : Int) ^ 63 ≤ n) (h₂ : n ≤ 2 ^ 63 - 1) (hw : 1 ≤ w) :
    fitsS n w = true ↔ -(2 : Int) ^ (w - 1) ≤ n ∧ n ≤ (2 : Int) ^ (w - 1) - 1 := by
  unfold fitsS
  rw [if_neg (by omega)]
  split
  · have : (2 : Int) ^ 63 ≤ 2 ^ (w - 1) := pow_le_pow_right₀ (by norm_num) (by omega)
    simp only [true_iff]
    constructor <;> linarith
  · simp

/-- A port value fits unsigned where none of its bits at or above the width is set (R115). -/
theorem fitsU_iff_high_bits_clear (v : Word) (w : Nat) : fitsU (U v) w = true ↔ ∀ i, w ≤ i → v.getLsbD i = false := by
  rw [fitsU_iff_le (U v) w v.isLt]
  have hp := Nat.two_pow_pos w
  constructor
  · intro h i hi
    have hlt : U v < 2 ^ w := by generalize U v = n at *; omega
    exact Nat.testBit_lt_two_pow (Nat.lt_of_lt_of_le hlt (Nat.pow_le_pow_right (by decide) hi))
  · intro h
    have hlt : U v < 2 ^ w := Nat.lt_pow_two_of_testBit _ h
    generalize U v = n at *
    omega

end Sys2Proof.Machine
end

