-- ==== Sys2Proof/Laws/Decode.lean ====
section
/-! SUPPORT. The packing and the decoder: each function's one lemma (R60, R61). -/

namespace Sys2Proof

/-- The field of a packed number at bit `k`, as the bit slice R60's table gives. -/
theorem extract_ofNat (n k : Nat) (h : k + 64 ≤ 259) :
    (BitVec.ofNat 259 n).extractLsb' k 64 = BitVec.ofNat 64 (n / 2 ^ k) := by
  apply BitVec.eq_of_getLsbD_eq
  intro i hi
  have hk : k + i < 259 := by omega
  rw [BitVec.getLsbD_extractLsb', BitVec.getLsbD_ofNat, BitVec.getLsbD_ofNat, Nat.testBit_div_two_pow, Nat.add_comm i k,
    decide_eq_true hi, decide_eq_true hk, Bool.true_and]

/-- The operation code of a packed number. -/
theorem extract_op_ofNat (n : Nat) :
    (BitVec.ofNat 259 n).extractLsb' 256 3 = BitVec.ofNat 3 (n / 2 ^ 256) := by
  apply BitVec.eq_of_getLsbD_eq
  intro i hi
  have hk : 256 + i < 259 := by omega
  rw [BitVec.getLsbD_extractLsb', BitVec.getLsbD_ofNat, BitVec.getLsbD_ofNat, Nat.testBit_div_two_pow, Nat.add_comm i 256,
    decide_eq_true hi, decide_eq_true hk, Bool.true_and]

/-- A number of at most 259 bits holds the request its 259 bits pack; a wider one is refused by name. -/
theorem requestOfBits_eq (n : Nat) :
    requestOfBits n = if n / 2 ^ 256 < 8 then .ok (unpackRequest (BitVec.ofNat 259 n)) else .error .widerThanReq := by
  unfold requestOfBits unpackRequest
  rw [extract_op_ofNat, extract_ofNat n 192 (by decide), extract_ofNat n 128 (by decide), extract_ofNat n 64 (by decide),
    extract_ofNat n 0 (by decide), Nat.pow_zero, Nat.div_one]

/-- `lowBits` is the remainder it stands for. -/
theorem lowBits_eq (nbits w : Nat) : lowBits nbits w = w % 2 ^ nbits := by
  unfold lowBits
  split
  · rfl
  · rename_i h
    obtain ⟨k, rfl⟩ : ∃ k, nbits = 256 + k := ⟨nbits - 256, by omega⟩
    rw [Nat.add_sub_cancel_left, Nat.pow_add, Nat.mod_mul]

/-- Only the operation code selects the row (R61). -/
theorem decodeRequest_opcode (r : Request) : (decodeRequest r).opcode = r.op := by
  obtain ⟨op, word, width, lsb, val⟩ := r
  have h : op = 0 ∨ op = 1 ∨ op = 2 ∨ op = 3 ∨ op = 4 ∨ op = 5 ∨ op = 6 ∨ op = 7 := by
    revert op; decide
  rcases h with rfl | rfl | rfl | rfl | rfl | rfl | rfl | rfl <;> rfl

end Sys2Proof
end

