-- ==== Sys2Proof/Laws/Families.lean ====
section
/-! SUPPORT. Everything each meaning that has cases can do, said once (R120, R121, R130, R131). -/

namespace Sys2Proof.Machine

/-- All that GET.S can answer (R120). -/
theorem answerGetS_cases (word width lsb val : Word) :
    answerGetS word width lsb val =
      if U lsb + U width ≤ 64 then .ok (sext (U width) (extract word (U width) (U lsb))) else .error .badField := by
  simp only [answerGetS, fieldOk_iff, readWidth, readLsb, respondOk, raise]

/-- All that GET.U can answer (R121). -/
theorem answerGetU_cases (word width lsb val : Word) :
    answerGetU word width lsb val =
      if U lsb + U width ≤ 64 then .ok (extract word (U width) (U lsb)) else .error .badField := by
  simp only [answerGetU, fieldOk_iff, readWidth, readLsb, respondOk, raise]

/-- All that SET.S can answer (R131, R146). -/
theorem answerSetS_cases (word width lsb val : Word) :
    answerSetS word width lsb val =
      if U lsb + U width ≤ 64 then
        if fitsS (S val) (U width) = true then .ok (insert word (U width) (U lsb) (val &&& mask (U width)))
        else .error .doesNotFit
      else .error .badField := by
  unfold answerSetS
  by_cases h : U lsb + U width ≤ 64
  · rw [readWidth, readLsb, (fieldOk_iff _ _).2 h, if_pos h]; rfl
  · rw [readWidth, readLsb, Bool.eq_false_iff.2 (mt (fieldOk_iff _ _).1 h), if_neg h]; rfl

/-- All that SET.U can answer (R130, R146). -/
theorem answerSetU_cases (word width lsb val : Word) :
    answerSetU word width lsb val =
      if U lsb + U width ≤ 64 then
        if fitsU (U val) (U width) = true then .ok (insert word (U width) (U lsb) val)
        else .error .doesNotFit
      else .error .badField := by
  unfold answerSetU
  by_cases h : U lsb + U width ≤ 64
  · rw [readWidth, readLsb, (fieldOk_iff _ _).2 h, if_pos h]; rfl
  · rw [readWidth, readLsb, Bool.eq_false_iff.2 (mt (fieldOk_iff _ _).1 h), if_neg h]; rfl

end Sys2Proof.Machine
end

