-- ==== Sys2Proof/Laws/PerInstr.lean ====
section
/-! SUPPORT. Statements about every instruction as syntax, one lemma per constructor (LAWS.json). -/

namespace Sys2Proof.Laws.MatchesTable

open Sys2Proof

/-- The row's code: its `match` in spec/opcode_table.json is this number at REQ bit 256 and its `mask` covers `op` alone. -/
def code : Instr → Nat
  | .fitsS _ _ _ _ => 0
  | .fitsU _ _ _ _ => 1
  | .getS _ _ _ _ => 2
  | .getU _ _ _ _ => 3
  | .setS _ _ _ _ => 4
  | .setU _ _ _ _ => 5
  | .reserved6 _ _ _ _ => 6
  | .reserved7 _ _ _ _ => 7

/-- The bits of an encoded instruction from index 256 on are its row's code (R60, R61). -/
def Statement (i : Instr) : Prop := (encode i).toNat / 2 ^ 256 = code i

/-- The bits of a packed request from index 256 on are its operation code (R60). -/
theorem pack_div (r : Request) : (r.pack).toNat / 2 ^ 256 = r.op.toNat := by
  have h : ((r.pack) >>> 256).toNat = (r.op.setWidth 259).toNat := by
    congr 1
    apply BitVec.eq_of_getLsbD_eq
    intro i hi
    simp only [Request.pack, BitVec.getLsbD_ushiftRight, BitVec.getLsbD_append, BitVec.getLsbD_setWidth]
    have h1 : ¬ 256 + i < 64 := by omega
    have h2 : ¬ 256 + i - 64 < 64 := by omega
    have h3 : ¬ 256 + i - 64 - 64 < 64 := by omega
    have h4 : ¬ 256 + i - 64 - 64 - 64 < 64 := by omega
    have h5 : 256 + i - 64 - 64 - 64 - 64 = i := by omega
    simp [h1, h2, h3, h4, h5, hi]
  rw [BitVec.toNat_ushiftRight, Nat.shiftRight_eq_div_pow, BitVec.toNat_setWidth_of_le (by decide)] at h
  exact h

theorem fitsS (word width lsb val : Word) : Statement (.fitsS word width lsb val) := pack_div _
theorem fitsU (word width lsb val : Word) : Statement (.fitsU word width lsb val) := pack_div _
theorem getS (word width lsb val : Word) : Statement (.getS word width lsb val) := pack_div _
theorem getU (word width lsb val : Word) : Statement (.getU word width lsb val) := pack_div _
theorem setS (word width lsb val : Word) : Statement (.setS word width lsb val) := pack_div _
theorem setU (word width lsb val : Word) : Statement (.setU word width lsb val) := pack_div _
theorem reserved6 (word width lsb val : Word) : Statement (.reserved6 word width lsb val) := pack_div _
theorem reserved7 (word width lsb val : Word) : Statement (.reserved7 word width lsb val) := pack_div _

end Sys2Proof.Laws.MatchesTable
end

