-- ==== Sys2Proof/Laws/State.lean ====
section
/-! SUPPORT. What each operation on the state does to each field, one lemma per field per operation. -/

namespace Sys2Proof.Machine

variable (s : State) (r : Response) (q : Request)

@[simp] theorem deliver_queue : (deliver r s).queue = s.queue := rfl
@[simp] theorem deliver_rst : (deliver r s).rst = s.rst := rfl
@[simp] theorem deliver_rsp : (deliver r s).rsp = some r := rfl
@[simp] theorem deliver_delivered : (deliver r s).delivered = s.delivered ++ [r] := rfl
@[simp] theorem deliver_schedule : (deliver r s).schedule = s.schedule := rfl

@[simp] theorem idle_rst : (idle s).rst = s.rst := rfl
@[simp] theorem idle_rsp : (idle s).rsp = none := rfl
@[simp] theorem idle_delivered : (idle s).delivered = s.delivered := rfl
@[simp] theorem idle_schedule : (idle s).schedule = s.schedule := rfl
theorem idle_queue_released (h : s.rst = false) : (idle s).queue = s.queue := by simp [idle, h]
theorem idle_queue_asserted (h : s.rst = true) : (idle s).queue = [] := by simp [idle, h]

@[simp] theorem accept_rst : (accept q s).rst = s.rst := by unfold accept; split <;> rfl
@[simp] theorem accept_rsp : (accept q s).rsp = none := by unfold accept; split <;> rfl
@[simp] theorem accept_delivered : (accept q s).delivered = s.delivered := by unfold accept; split <;> rfl
@[simp] theorem accept_schedule : (accept q s).schedule = s.schedule := by unfold accept; split <;> rfl
theorem accept_queue_released (h : s.rst = false) : (accept q s).queue = s.queue ++ [q] := by simp [accept, h]
theorem accept_queue_asserted (h : s.rst = true) : (accept q s).queue = [] := by simp [accept, h, idle]

@[simp] theorem assertRst_queue : (assertRst s).queue = [] := rfl
@[simp] theorem assertRst_rst : (assertRst s).rst = true := rfl
@[simp] theorem assertRst_rsp : (assertRst s).rsp = none := rfl
@[simp] theorem assertRst_delivered : (assertRst s).delivered = s.delivered := rfl
@[simp] theorem assertRst_schedule : (assertRst s).schedule = s.schedule := rfl

@[simp] theorem releaseRst_rst : (releaseRst s).rst = false := rfl
@[simp] theorem releaseRst_rsp : (releaseRst s).rsp = none := rfl
@[simp] theorem releaseRst_delivered : (releaseRst s).delivered = s.delivered := rfl
@[simp] theorem releaseRst_schedule : (releaseRst s).schedule = s.schedule := rfl
theorem releaseRst_queue : (releaseRst s).queue = if s.rst then [] else s.queue := rfl

@[simp] theorem resetPulse_queue : (resetPulse s).queue = [] := rfl
@[simp] theorem resetPulse_rst : (resetPulse s).rst = false := rfl
@[simp] theorem resetPulse_rsp : (resetPulse s).rsp = none := rfl
@[simp] theorem resetPulse_delivered : (resetPulse s).delivered = s.delivered := rfl
@[simp] theorem resetPulse_schedule : (resetPulse s).schedule = s.schedule := rfl

end Sys2Proof.Machine
end

