-- ==== Sys2Proof/Laws/Step.lean ====
section
/-! SUPPORT. What the fetch, the meanings and the step can do, said once (R33, R147). -/

namespace Sys2Proof.Machine

/-- A meaning emits its response and does nothing else (R147). -/
theorem exec_next_deliver (i : Instr) (s : State) : exec i s = .next (deliver (answer i) s) := by
  cases i <;> rfl

/-- Where *respond* is enabled the fetch takes the oldest request. -/
theorem fetch_cons {s : State} {r : Request} {q : List Request} (hr : s.rst = false) (hq : s.queue = r :: q) :
    fetch s = some (decodeRequest r, { s with queue := q }) := by
  simp [fetch, hr, hq]

/-- Where reset is asserted nothing is fetched. -/
theorem fetch_asserted {s : State} (hr : s.rst = true) : fetch s = none := by
  simp [fetch, hr]

/-- Where Q is empty nothing is fetched. -/
theorem fetch_empty {s : State} (hq : s.queue = []) : fetch s = none := by
  unfold fetch; split <;> simp_all

/-- All that the unit's own move can do. -/
theorem respond_cases (s : State) :
    (∃ r q, s.rst = false ∧ s.queue = r :: q ∧ fetch s = some (decodeRequest r, { s with queue := q })) ∨
    ((s.rst = true ∨ s.queue = []) ∧ fetch s = none) := by
  cases hr : s.rst with
  | true => exact .inr ⟨.inl rfl, fetch_asserted hr⟩
  | false =>
    cases hq : s.queue with
    | nil => exact .inr ⟨.inr rfl, fetch_empty hq⟩
    | cons r q => exact .inl ⟨r, q, rfl, rfl, by rw [fetch_cons hr hq, hr]⟩

/-- All that the unit's own move leads to. -/
def respondResult (s : State) : State :=
  match fetch s with
  | some (i, u) => deliver (answer i) u
  | none => idle s

/-- The state a move leads to, the move being off the schedule. -/
def moveResult : Move → State → State
  | .accept r, s => accept r s
  | .respond, s => respondResult s
  | .reset, s => resetPulse s
  | .assertRst, s => assertRst s
  | .releaseRst, s => releaseRst s

/-- A step is the next move's result; it never stops (R33, R71). -/
theorem step_next_moveResult (s : State) : step s = .next (moveResult (nextMove s).1 (nextMove s).2) := by
  unfold step
  cases hm : nextMove s with
  | mk m t =>
    cases m with
    | respond =>
      simp only [moveResult, respondResult]
      cases fetch t with
      | none => rfl
      | some p => simp only [exec_next_deliver]
    | _ => rfl

/-- Where Q is empty a move delivers nothing, and Q is still empty unless the move presents a request. -/
theorem moveResult_of_queue_empty (m : Move) {s : State} (hq : s.queue = []) :
    (moveResult m s).delivered = s.delivered ∧ (moveResult m s).schedule = s.schedule ∧
      (presented [m] = [] → (moveResult m s).queue = []) := by
  cases m with
  | accept r => simp [moveResult, presented]
  | respond => simp [moveResult, respondResult, fetch_empty hq, idle, hq]
  | _ => simp [moveResult, resetPulse, assertRst, releaseRst, idle, hq]

/-- When a run is over nothing is owed beyond what has been delivered (R179). -/
theorem owed_of_runOver {s : State} (h : s.runOver) : owed s = s.delivered := by
  simp [owed, h.1, h.2]

/-- One step of the host's run, where the step has a next state. -/
theorem core_run_next (M : Host.Core) (k : Nat) {s t : M.State} (h : M.step s = .next t) : M.run (k + 1) s = M.run k t := by
  simp only [Host.Core.run, h]

/-- `runSteps` is the host's run of the core. -/
theorem core_run_eq_runSteps (k : Nat) (s : State) : Host.Core.run Sys2Proof.core k s = runSteps k s := by
  induction k generalizing s with
  | zero => rfl
  | succ k ih =>
    rw [runSteps, step_next_moveResult]
    exact (core_run_next Sys2Proof.core k (step_next_moveResult s)).trans (ih _)

/-- One step more is the next move's result, run on. -/
theorem runSteps_succ (k : Nat) (s : State) :
    runSteps (k + 1) s = runSteps k (moveResult (nextMove s).1 (nextMove s).2) := by
  rw [runSteps, step_next_moveResult]

theorem nextMove_nil {s : State} (h : s.schedule = []) : nextMove s = (.respond, s) := by
  simp [nextMove, h]

theorem nextMove_cons {s : State} {m : Move} {rest : List Move} (h : s.schedule = m :: rest) :
    nextMove s = (m, { s with schedule := rest }) := by
  simp [nextMove, h]

end Sys2Proof.Machine
end

