-- ==== Sys2Proof/Tests/Slice0.lean ====
section
/-! SUPPORT. Tests. Expected results are those of spec/95_test_vectors.md or worked out from the rule named; none is the
model's own answer. Below them, for every statement with hypotheses, a theorem that meets all of them at once. -/

namespace Sys2Proof.Tests

open Sys2Proof Sys2Proof.Machine

/-- The packed response that the very next step gives to a packed request placed in the state right after reset. -/
def packedAnswer (req : Nat) : Option (BitVec 66) :=
  match step (State.reset.withFetchWord 264 req) with
  | .next t => t.rsp.map packResponse
  | .fault _ => none
  | .refused _ => none

/-- The state right after reset with some moves to come. -/
def scheduled (moves : List Move) : State := { State.reset with schedule := moves }

/-- What has been delivered after `k` steps. -/
def deliveredAfter (k : Nat) (moves : List Move) : Option (List Response) :=
  match runSteps k (scheduled moves) with
  | .next t => some t.delivered
  | .fault _ => none
  | .refused _ => none

/-! ### WellFormed: an ill-formed term for each check -/

theorem test_wf_refuses_code6 : (Instr.reserved6 0 0 0 0).wf = false := by decide
theorem test_wf_refuses_code7 : (Instr.reserved7 0 0 0 0).wf = false := by decide
theorem test_wf_accepts_assigned : (Instr.fitsS 0 0 0 0).wf = true := by decide
theorem test_contained_refuses_getS : (Instr.getS 0 1 64 0).contained = false := by decide
theorem test_contained_refuses_getU : (Instr.getU 0 64 1 0).contained = false := by decide
theorem test_contained_refuses_setS : (Instr.setS 0 65 0 0).contained = false := by decide
theorem test_contained_refuses_setU : (Instr.setU 0 1 0xFFFFFFFFFFFFFFFF 0).contained = false := by decide
theorem test_contained_accepts_edge : (Instr.getU 0 0 64 0).contained = true := by decide

/-! ### Decoding: words of spec/95_test_vectors.md, one op digit then 16 digits each of word, width, lsb, val -/

theorem test_decode_fitsS : decodeTableWord 264 0x0DEADBEEFDEADBEEF000000000000000200000000000003E7FFFFFFFFFFFFFFFE =
    some (.fitsS 0xDEADBEEFDEADBEEF 2 999 0xFFFFFFFFFFFFFFFE) := by decide
theorem test_decode_fitsU : decodeTableWord 264 0x10000000000000000000000000000000200000000000000000000000000000004 =
    some (.fitsU 0 2 0 4) := by decide
theorem test_decode_getS : decodeTableWord 264 0x20123456789ABCDEF0000000000000007000000000000001D0000000000000000 =
    some (.getS 0x0123456789ABCDEF 7 29 0) := by decide
theorem test_decode_getU : decodeTableWord 264 0x3000000000000000A000000000000000200000000000000010000000000000000 =
    some (.getU 10 2 1 0) := by decide
theorem test_decode_setS : decodeTableWord 264 0x4FFFFFFFFFFFFFFFF000000000000000C0000000000000014FFFFFFFFFFFFFFFB =
    some (.setS 0xFFFFFFFFFFFFFFFF 12 20 0xFFFFFFFFFFFFFFFB) := by decide
theorem test_decode_setU : decodeTableWord 264 0x50000000000000000000000000000000400000000000000020000000000000003 =
    some (.setU 0 4 2 3) := by decide
theorem test_decode_code6 : decodeTableWord 264 0x60123456789ABCDEF000000000000000400000000000000020000000000000003 =
    some (.reserved6 0x0123456789ABCDEF 4 2 3) := by decide
theorem test_decode_code7 : decodeTableWord 264 0x7000000000000012C000000000000000900000000000000000000000000000000 =
    some (.reserved7 300 9 0 0) := by decide
/-- R68: a bit above the 259 of REQ makes a string no request. -/
theorem test_decode_refuses_wider : decodeBits 0x80000000000000000000000000000000000000000000000000000000000000000 =
    .error .widerThanReq := by rfl
/-- R69: the line `SET.S 0xFFFFFFFFFFFFFFFF, 12, 20, -5` packs as its vector in section 2.6. -/
theorem test_line_setS : encodeRequest (decodeRequest (lineSetS 0xFFFFFFFFFFFFFFFF 12 20 (-5))) =
    ⟨4, 0xFFFFFFFFFFFFFFFF, 12, 20, 0xFFFFFFFFFFFFFFFB⟩ := by decide

/-! ### The datapath (spec/95_test_vectors.md section 2.8) -/

theorem test_mask_corners : mask 0 = 0 ∧ mask 7 = 0x7F ∧ mask 63 = 0x7FFFFFFFFFFFFFFF ∧ mask 64 = 0xFFFFFFFFFFFFFFFF ∧
    mask 65 = 0xFFFFFFFFFFFFFFFF := by decide
theorem test_fmask : fmask 13 51 = 0xFFF8000000000000 ∧ fmask 0 64 = 0 ∧ fmask 1 63 = 0x8000000000000000 := by decide
theorem test_shifters_at_64 : shr 0xFFFFFFFFFFFFFFFF 64 = 0 ∧ shl 0xFFFFFFFFFFFFFFFF 64 = 0 ∧ shl 3 63 = 0x8000000000000000 := by
  decide
theorem test_sext : sext 7 0x5C = 0xFFFFFFFFFFFFFFDC ∧ sext 63 0x4000000000000000 = 0xC000000000000000 ∧ sext 0 0 = 0 := by decide
theorem test_insert : insert 0x0123456789ABCDEF 8 24 0x5A = 0x012345675AABCDEF := by decide
theorem test_barrel : barrelShr 0x0123456789ABCDEF 4 = 0x00123456789ABCDE ∧ barrelShl 3 63 = 0x8000000000000000 ∧
    barrelShr 0xFFFFFFFFFFFFFFFF 64 = 0 := by decide

/-! ### One step of each instruction (spec/95_test_vectors.md section 2) -/

/-- `FITS.S -2, 2` with other values on the unread operands. -/
theorem test_fitsS_unread : packedAnswer 0x0DEADBEEFDEADBEEF000000000000000200000000000003E7FFFFFFFFFFFFFFFE = some 1 := by decide
/-- `FITS.S -2^63, 2^64-1`, the largest width the port can carry. -/
theorem test_fitsS_wide : packedAnswer 0x00000000000000000FFFFFFFFFFFFFFFF00000000000000008000000000000000 = some 1 := by decide
/-- `FITS.U 256, 8`. -/
theorem test_fitsU_over : packedAnswer 0x10000000000000000000000000000000800000000000000000000000000000100 = some 0 := by decide
/-- `FITS.U 2^64-1, 64`. -/
theorem test_fitsU_64 : packedAnswer 0x1000000000000000000000000000000400000000000000000FFFFFFFFFFFFFFFF = some 1 := by decide
/-- `GET.S 0x0123456789ABCDEF, 16, 16`. -/
theorem test_getS_negative : packedAnswer 0x20123456789ABCDEF000000000000001000000000000000100000000000000000 =
    some 0x0FFFFFFFFFFFF89AB := by decide
/-- `GET.S 0x0123456789ABCDEF, 1, 2^64-1`: a 64-bit sum would wrap to 0. -/
theorem test_getS_no_wrap : packedAnswer 0x20123456789ABCDEF0000000000000001FFFFFFFFFFFFFFFF0000000000000000 =
    some 0x20000000000000000 := by decide
/-- `GET.U 0x0123456789ABCDEF, 63, 1`. -/
theorem test_getU_63 : packedAnswer 0x30123456789ABCDEF000000000000003F00000000000000010000000000000000 =
    some 0x00091A2B3C4D5E6F7 := by decide
/-- `GET.U 0xFFFFFFFFFFFFFFFF, 0, 64`: width 0 at index 64 is contained. -/
theorem test_getU_width0 : packedAnswer 0x3FFFFFFFFFFFFFFFF000000000000000000000000000000400000000000000000 = some 0 := by decide
/-- `SET.S 0xFFFFFFFFFFFFFFFF, 12, 20, -5`: differs from OR-only. -/
theorem test_setS_overwrites : packedAnswer 0x4FFFFFFFFFFFFFFFF000000000000000C0000000000000014FFFFFFFFFFFFFFFB =
    some 0x0FFFFFFFFFFBFFFFF := by decide
/-- `SET.S 0, 4, 60, 8` does not fit. -/
theorem test_setS_does_not_fit : packedAnswer 0x400000000000000000000000000000004000000000000003C0000000000000008 =
    some 0x10000000000000000 := by decide
/-- `SET.U 0x0123456789ABCDEF, 7, 29, 35`. -/
theorem test_setU_straddles : packedAnswer 0x50123456789ABCDEF0000000000000007000000000000001D0000000000000023 =
    some 0x00123456469ABCDEF := by decide
/-- `SET.U 0, 2, 63, 4`: both conditions, BAD_FIELD wins (R146). -/
theorem test_setU_priority : packedAnswer 0x500000000000000000000000000000002000000000000003F0000000000000004 =
    some 0x20000000000000000 := by decide
/-- Code 6 with operands that would fit a set. -/
theorem test_code6 : packedAnswer 0x60123456789ABCDEF000000000000000400000000000000020000000000000003 =
    some 0x30000000000000000 := by decide
/-- Code 7 with every bit set. -/
theorem test_code7 : packedAnswer 0x7FFFFFFFFFFFFFFFFFFFFFFFFFFFFFFFFFFFFFFFFFFFFFFFFFFFFFFFFFFFFFFFF =
    some 0x30000000000000000 := by decide

/-! ### The machine (spec/95_test_vectors.md section 4) -/

/-- S3: an error affects its own response only. -/
theorem test_sequence_S3 :
    deliveredAfter 4 [.accept (lineSetU 0 2 0 4), .accept (lineGetU 10 2 1), .respond, .respond] =
      some [.error .doesNotFit, .ok 1] := by decide
/-- S4: the request in flight at reset is dropped and never answered. -/
theorem test_sequence_S4 :
    deliveredAfter 6 [.accept (lineGetS 2 2 0), .accept (lineFitsS 2 2), .respond, .reset, .accept (lineFitsS (-2) 2), .respond] =
      some [.ok 0xFFFFFFFFFFFFFFFE, .ok 1] := by decide
/-- R170: a request presented while `rst` is asserted is ignored. -/
theorem test_request_under_reset_is_ignored :
    deliveredAfter 5 [.assertRst, .accept (lineFitsS 0 0), .releaseRst, .accept (lineFitsU 4 2), .respond] = some [.ok 0] := by
  decide
/-- R176 with LATENCY 2: presented in cycle 0, answered in cycle 2. -/
theorem test_latency_two :
    clockOutputs ⟨.activeHigh, .synchronous⟩ (emptyStages 2) [⟨false, some (lineFitsU 3 2)⟩, ⟨false, none⟩, ⟨false, none⟩] =
      [none, none, some (.ok 1)] := by decide
/-- R176 with LATENCY 0: answered in its own cycle, and not while reset is asserted (active low). -/
theorem test_latency_zero :
    clockOutputs ⟨.activeLow, .asynchronous⟩ (emptyStages 0) [⟨true, some (lineFitsU 3 2)⟩, ⟨false, some (lineFitsU 3 2)⟩] =
      [some (.ok 1), none] := by decide

/-! ### Witnesses: the hypotheses of each statement that has some, met together, for each clause at a boundary -/

theorem witness_PackedResponse : statusCode (.error .badField) ≠ 0 := by decide
theorem witness_FieldCheck : fieldOk 1 63 = true := by decide
theorem witness_Mask : 64 ≤ 64 ∧ 64 < 65 ∧ (63 : Nat) < 64 := by decide
theorem witness_RightShifter : (3 : Nat) < 64 ∧ 3 + 60 ≤ 63 ∧ 64 ≤ 64 := by decide
theorem witness_LeftShifter : 62 + 2 ≤ 64 ∧ ∀ i, 2 ≤ i → (3 : Word).getLsbD i = false := by
  refine ⟨by decide, fun i hi => ?_⟩
  exact Nat.testBit_lt_two_pow (Nat.lt_of_lt_of_le (by decide : 3 < 2 ^ 2) (Nat.pow_le_pow_right (by decide) hi))
theorem witness_FieldMask : 51 + 13 ≤ 64 ∧ (63 : Nat) < 64 := by decide
theorem witness_Extraction : 48 + 16 ≤ 64 ∧ 64 ≤ 64 := by decide
theorem witness_SignExtension :
    1 ≤ 2 ∧ 2 ≤ 64 ∧ (∀ i, 2 ≤ i → (3 : Word).getLsbD i = false) ∧ (3 : Word).getLsbD (2 - 1) = true ∧
      (1 : Word).getLsbD (2 - 1) = false :=
  ⟨by decide, by decide, witness_LeftShifter.2, by decide, by decide⟩
theorem witness_Insertion : 62 + 2 ≤ 64 ∧ ∀ i, 2 ≤ i → (3 : Word).getLsbD i = false := witness_LeftShifter
theorem witness_FitsOnBits : 1 ≤ 1 ∧ fitsS (S (0xFFFFFFFFFFFFFFFF : Word)) 1 = true ∧ fitsS (S (1 : Word)) 1 = false ∧ 64 ≤ 64 := by
  decide
theorem witness_FitsSigned_range : 1 ≤ U (63 : Word) ∧ U (63 : Word) ≤ 63 ∧ fitsS (S (0xC000000000000000 : Word)) 63 = true ∧
    fitsS (S (0xBFFFFFFFFFFFFFFF : Word)) 63 = false := by decide
theorem witness_FitsSigned_wide : 64 ≤ U (64 : Word) := by decide
theorem witness_FitsSigned_zero : U (0 : Word) = 0 ∧ S (0 : Word) = 0 := by decide
theorem witness_FitsUnsigned : 64 ≤ U (0xFFFFFFFFFFFFFFFF : Word) ∧ U (0 : Word) = 0 := by decide
theorem witness_FitsLaws : -(2 : Int) ^ 63 ≤ -2 ∧ (-2 : Int) ≤ 2 ^ 63 - 1 ∧ fitsS (-2) 2 = true ∧ fitsU 3 2 = true ∧ 3 < 2 ^ 64 ∧
    (3 : Nat) ≤ 2 ^ 63 - 1 ∧ 1 ≤ 2 ∧ 64 ≤ 64 := by decide
theorem witness_GetUnsigned : U (63 : Word) + U (1 : Word) ≤ 64 ∧ 64 < U (64 : Word) + U (1 : Word) ∧ U (1 : Word) ≤ 1 := by decide
theorem witness_GetSigned : U (63 : Word) + U (1 : Word) ≤ 64 ∧ 1 ≤ U (1 : Word) ∧ U (64 : Word) + U (0 : Word) ≤ 64 ∧
    U (0 : Word) = 0 ∧ 64 < U (64 : Word) + U (1 : Word) := by decide
theorem witness_GetPair : U (62 : Word) + U (2 : Word) ≤ 64 ∧ 1 ≤ U (2 : Word) ∧
    U (extract 0x4000000000000000 2 62) < 2 ^ (2 - 1) ∧ 2 ^ (2 - 1) ≤ U (extract 0x8000000000000000 2 62) ∧
    U (64 : Word) = 64 ∧ U (0 : Word) = 0 ∧ 64 < U (64 : Word) + U (1 : Word) := by decide
theorem witness_WhatIsGotFits : U (0 : Word) + U (64 : Word) ≤ 64 := by decide
theorem witness_GetReads : U (63 : Word) + U (1 : Word) ≤ 64 ∧ agreeInside 1 63 0x8000000000000000 0xFFFFFFFFFFFFFFFF := by
  refine ⟨by decide, fun i h₁ h₂ => ?_⟩
  obtain rfl : i = 63 := by omega
  decide
theorem witness_SetUnsigned_badField : 64 < U (63 : Word) + U (2 : Word) := by decide
theorem witness_SetUnsigned_doesNotFit : U (62 : Word) + U (2 : Word) ≤ 64 ∧ fitsU (U (4 : Word)) (U (2 : Word)) = false := by decide
theorem witness_SetUnsigned_ok : U (62 : Word) + U (2 : Word) ≤ 64 ∧ fitsU (U (3 : Word)) (U (2 : Word)) = true := by decide
theorem witness_SetSigned_doesNotFit : U (60 : Word) + U (4 : Word) ≤ 64 ∧ fitsS (S (8 : Word)) (U (4 : Word)) = false := by decide
theorem witness_SetSigned_ok : U (60 : Word) + U (4 : Word) ≤ 64 ∧ fitsS (S (0xFFFFFFFFFFFFFFF8 : Word)) (U (4 : Word)) = true ∧
    S (0xFFFFFFFFFFFFFFF8 : Word) < 0 ∧ fitsS (S (7 : Word)) (U (4 : Word)) = true ∧ 0 ≤ S (7 : Word) := by decide
theorem witness_SetChanges : U (62 : Word) + U (2 : Word) ≤ 64 ∧ valueFits false 3 (U (2 : Word)) = true ∧
    valueFits true 2 (U (2 : Word)) = false ∧ U (0 : Word) = 0 ∧ valueFits true 0 (U (0 : Word)) = true := by decide
theorem witness_SetOverwrites : U (2 : Word) + U (4 : Word) ≤ 64 ∧ valueFits false 3 (U (4 : Word)) = true ∧ extract 0xC3 4 2 = 0 := by
  decide
theorem witness_RoundTrips : U (0 : Word) + U (64 : Word) ≤ 64 ∧ valueFits true 0x8000000000000000 (U (64 : Word)) = true := by decide
theorem witness_Disjoint : U (0 : Word) + U (4 : Word) ≤ 64 ∧ valueFits true 0xFFFFFFFFFFFFFFF8 (U (4 : Word)) = true ∧
    U (4 : Word) + U (60 : Word) ≤ 64 ∧ U (0 : Word) + U (4 : Word) ≤ U (4 : Word) := by decide
theorem witness_Relations_a : 1 ≤ U (2 : Word) ∧ 0 ≤ S (1 : Word) ∧ S (1 : Word) ≤ (2 : Int) ^ (U (2 : Word) - 1) - 1 := by decide
theorem witness_Relations_b : U (0 : Word) + U (2 : Word) ≤ 64 ∧ fitsS (S (0xFFFFFFFFFFFFFFFE : Word)) (U (2 : Word)) = true := by decide
theorem witness_Relations_c : 1 ≤ 63 ∧ 63 ≤ 63 ∧ 2 ^ (63 - 1) ≤ U (0x4000000000000000 : Word) ∧
    U (0x4000000000000000 : Word) ≤ 2 ^ 63 - 1 ∧ S (0x8000000000000000 : Word) < 0 ∧ 63 < 64 := by decide
theorem witness_Relations_d : U (0 : Word) + U (2 : Word) ≤ 64 ∧ U (2 : Word) + U (62 : Word) ≤ 64 ∧
    U (0 : Word) + U (2 : Word) ≤ U (2 : Word) ∧ valueFits true 1 (U (2 : Word)) = true ∧ valueFits false 5 (U (62 : Word)) = true := by
  decide
theorem witness_Relations_e : U (0 : Word) + U (2 : Word) ≤ 64 ∧ valueFits false 3 (U (2 : Word)) = true := by decide
theorem witness_Reserved : opClass (6 : BitVec 3) = 0b11 ∧ State.reset.rst = false ∧
    (scheduled [.accept ⟨6, 0, 0, 0, 0⟩]).schedule = .accept ⟨6, 0, 0, 0, 0⟩ :: [] ∧
    ({ State.reset with queue := [⟨7, 0, 0, 0, 0⟩] } : State).queue = ⟨7, 0, 0, 0, 0⟩ :: [] ∧ respondsNext State.reset [] :=
  ⟨by decide, rfl, rfl, rfl, .inl ⟨rfl, rfl⟩⟩
theorem witness_DoesNotFit : U (0 : Word) + U (1 : Word) ≤ 64 ∧ valueFits true 1 (U (1 : Word)) = false := by decide
theorem witness_BadField : 64 < U (65 : Word) ∨ 64 < U (0 : Word) := by decide
theorem witness_Priority_badOp : opClass (7 : BitVec 3) = 0b11 := by decide
theorem witness_Priority_badField : opClass (5 : BitVec 3) = 0b10 ∧ opClass (2 : BitVec 3) = 0b01 ∧
    64 < U (63 : Word) + U (2 : Word) ∧ valueFits (!opUnsigned 5) 4 (U (2 : Word)) = false := by decide
theorem witness_Priority_doesNotFit : opClass (5 : BitVec 3) = 0b10 ∧ U (62 : Word) + U (2 : Word) ≤ 64 ∧
    valueFits (!opUnsigned 5) 4 (U (2 : Word)) = false := by decide
theorem witness_Priority_none : opClass (4 : BitVec 3) ≠ 0b11 ∧ U (62 : Word) + U (2 : Word) ≤ 64 ∧
    valueFits (!opUnsigned 4) 1 (U (2 : Word)) = true := by decide
theorem witness_Unread : agreeOnReadOperands ⟨0, 1, 2, 3, 4⟩ ⟨0, 5, 2, 6, 4⟩ := by unfold agreeOnReadOperands; decide
theorem witness_StepRuns : (scheduled [.respond]).rst = false ∧
    ({ scheduled [.respond] with queue := [lineFitsS 0 0] } : State).queue = lineFitsS 0 0 :: [] ∧
    respondsNext { scheduled [.respond] with queue := [lineFitsS 0 0] } [] := ⟨rfl, rfl, .inr rfl⟩
theorem witness_StepRunsPlaced : decodeTableWord 264 0 = some (.fitsS 0 0 0 0) := by decide
theorem witness_Accept : (scheduled [.accept (lineFitsU 4 2)]).schedule = .accept (lineFitsU 4 2) :: [] ∧
    (scheduled []).rst = false ∧ (assertRst (scheduled [.accept (lineFitsU 4 2)])).rst = true ∧
    (assertRst (scheduled [.accept (lineFitsU 4 2)])).schedule = .accept (lineFitsU 4 2) :: [] := by decide
theorem witness_Reset : (scheduled [.reset]).schedule = .reset :: [] ∧ (scheduled [.assertRst]).schedule = .assertRst :: [] ∧
    (assertRst State.reset).rst = true ∧
    ∀ rest, (assertRst State.reset).schedule ≠ .reset :: rest ∧ (assertRst State.reset).schedule ≠ .releaseRst :: rest :=
  ⟨rfl, rfl, rfl, fun _ => ⟨nofun, nofun⟩⟩
theorem witness_StepKeepsInvariant : State.reset.inv ∧ step State.reset = .next State.reset :=
  ⟨⟨nofun, nofun⟩, rfl⟩
theorem witness_StepKeepsOwed : (scheduled [.accept (lineFitsU 4 2)]).rst = false ∧
    noReset (scheduled [.accept (lineFitsU 4 2)]).schedule = true ∧
    step (scheduled [.accept (lineFitsU 4 2)]) = .next { State.reset with queue := [lineFitsU 4 2] } := ⟨rfl, rfl, rfl⟩
theorem witness_RunDelivers : (scheduled [.accept (lineFitsU 4 2), .respond]).rst = false ∧
    noReset (scheduled [.accept (lineFitsU 4 2), .respond]).schedule = true := by decide
theorem witness_RunAfterReset :
    (scheduled [.reset, .accept (lineFitsU 4 2)]).schedule = .reset :: [.accept (lineFitsU 4 2)] ∧
    noReset [.accept (lineFitsU 4 2)] = true := by decide
theorem witness_RunOver : (scheduled [.respond, .reset]).runOver := ⟨rfl, rfl⟩
theorem test_run_not_over : ¬(scheduled [.reset, .accept (lineFitsU 4 2)]).runOver := nofun
theorem witness_EqualRequests : State.reset.rst = false ∧
    ({ State.reset with queue := [lineFitsU 4 2] } : State).queue = lineFitsU 4 2 :: [] ∧
    ({ State.reset with queue := [lineFitsU 4 2, lineFitsS 0 0] } : State).queue = lineFitsU 4 2 :: [lineFitsS 0 0] ∧
    respondsNext { State.reset with queue := [lineFitsU 4 2] } [] ∧
    respondsNext { State.reset with queue := [lineFitsU 4 2, lineFitsS 0 0] } [] :=
  ⟨rfl, rfl, rfl, .inl ⟨rfl, rfl⟩, .inl ⟨rfl, rfl⟩⟩
theorem witness_Latency :
    (∀ c ∈ [(⟨false, some (lineFitsU 4 2)⟩ : Machine.Cycle), ⟨false, none⟩],
      rstAsserted ⟨.activeHigh, .synchronous⟩ c.rstPin = false) ∧
    0 + 1 < [(⟨false, some (lineFitsU 4 2)⟩ : Machine.Cycle), ⟨false, none⟩].length ∧ 0 < 1 := by decide
theorem witness_IndependentOfLatency :
    ∀ c ∈ [(⟨true, some (lineFitsU 4 2)⟩ : Machine.Cycle)], rstAsserted ⟨.activeLow, .asynchronous⟩ c.rstPin = false := by decide
theorem witness_AtMostLatency : rstAsserted ⟨.activeHigh, .asynchronous⟩ false = false := by decide
theorem witness_AssertedReset : rstAsserted ⟨.activeLow, .synchronous⟩ false = true := by decide
theorem witness_Refinement : (scheduled [.accept (lineFitsU 4 2)]).rst = false ∧
    (scheduled [.accept (lineFitsU 4 2)]).queue = inFlight (emptyStages 1) ∧
    (scheduled [.accept (lineFitsU 4 2)]).schedule =
      traceMoves ⟨.activeHigh, .synchronous⟩ (emptyStages 1) [⟨false, some (lineFitsU 4 2)⟩] := by decide

end Sys2Proof.Tests
end

section
/-! The get and set families as functions of single bits, and the independence of disjoint fields (R51). -/

namespace Sys2Proof.Machine

/-! ### Fields of a word -/

/-- EXTRACT depends on the bits of its field only (R94, R124). -/
theorem extract_eq_of_agreeInside {w l : Nat} {x y : Word} (h : agreeInside w l x y) :
    extract x w l = extract y w l := by
  apply BitVec.eq_of_getLsbD_eq
  intro i _
  rw [extract_getLsbD, extract_getLsbD]
  by_cases hi : i < w
  · rw [h (l + i) (by omega) (by omega)]
  · simp [hi]

/-- INSERT leaves the bits outside its field, where the pattern has no bit at or above the width (R96, R133). -/
theorem insert_agreeOutside (word : Word) {p : Word} {w : Nat} (l : Nat) (hp : ∀ i, w ≤ i → p.getLsbD i = false) :
    agreeOutside w l (insert word w l p) word := by
  intro i hi
  rw [insert_getLsbD]
  rcases hi with below | above
  · simp [show ¬ l ≤ i by omega]
  · simp [hp (i - l) (by omega), show ¬ i < l + w by omega]

/-- Words that agree outside a field agree inside every field disjoint from it. -/
theorem agreeOutside.agreeInside_disjoint {w l w' l' : Nat} {x y : Word} (h : agreeOutside w l x y)
    (hd : l + w ≤ l' ∨ l' + w' ≤ l) : agreeInside w' l' x y := by
  intro i hlo hhi
  exact h i (by omega)

/-! ### The pattern a set inserts -/

/-- A masked pattern has no bit at or above the width (R91, R131). -/
theorem and_mask_high_bits_clear (val : Word) (w : Nat) : ∀ i, w ≤ i → (val &&& mask w).getLsbD i = false := by
  intro i hi
  rw [BitVec.getLsbD_and, mask_getLsbD]
  simp [show ¬ i < w by omega]

/-- A value that fits unsigned is its own masked pattern (R115, R130). -/
theorem and_mask_of_fitsU {val : Word} {w : Nat} (h : fitsU (U val) w = true) : val &&& mask w = val := by
  have hclear := (fitsU_iff_high_bits_clear val w).1 h
  apply BitVec.eq_of_getLsbD_eq
  intro i hi
  rw [BitVec.getLsbD_and, mask_getLsbD]
  by_cases hw : i < w
  · simp [hw, hi]
  · simp [hw, hclear i (by omega)]

/-! ### The answers of the two families -/

/-- A get answers alike for words that agree inside its field, contained or not (R124). -/
theorem answer_getAs_eq_of_agreeInside (signed : Bool) {x y width lsb : Word} (any : Word)
    (h : agreeInside (U width) (U lsb) x y) :
    answer (getAs signed x width lsb any) = answer (getAs signed y width lsb any) := by
  cases signed with
  | true =>
    change answerGetS x width lsb any = answerGetS y width lsb any
    rw [answerGetS_cases, answerGetS_cases, extract_eq_of_agreeInside h]
  | false =>
    change answerGetU x width lsb any = answerGetU y width lsb any
    rw [answerGetU_cases, answerGetU_cases, extract_eq_of_agreeInside h]

/-- A get runs alike on words that agree inside its field (R124). -/
theorem exec_getAs_eq_of_agreeInside (signed : Bool) {x y width lsb : Word} (any : Word) (s : State)
    (h : agreeInside (U width) (U lsb) x y) :
    exec (getAs signed x width lsb any) s = exec (getAs signed y width lsb any) s := by
  rw [exec_next_deliver, exec_next_deliver, answer_getAs_eq_of_agreeInside signed any h]

/-- A set of either signedness whose field is contained and whose value fits answers the word with the masked value
inserted (R130, R131). -/
theorem answer_setAs_of_fits (signed : Bool) (word : Word) {width lsb val : Word} (hc : U lsb + U width ≤ 64)
    (hfit : valueFits signed val (U width) = true) :
    answer (setAs signed word width lsb val) = .ok (insert word (U width) (U lsb) (val &&& mask (U width))) := by
  cases signed with
  | true =>
    change answerSetS word width lsb val = _
    have hfits : fitsS (S val) (U width) = true := hfit
    rw [answerSetS_cases, if_pos hc, if_pos hfits]
  | false =>
    change answerSetU word width lsb val = _
    have hfits : fitsU (U val) (U width) = true := hfit
    rw [answerSetU_cases, if_pos hc, if_pos hfits, and_mask_of_fitsU hfits]

/-- Such a set completes with that word, and all else is as it was (R130, R131, R147). -/
theorem exec_setAs_of_fits (signed : Bool) (word : Word) {width lsb val : Word} (s : State)
    (hc : U lsb + U width ≤ 64) (hfit : valueFits signed val (U width) = true) :
    exec (setAs signed word width lsb val) s =
      .next (s.answered (.ok (insert word (U width) (U lsb) (val &&& mask (U width))))) := by
  rw [exec_next_deliver, answer_setAs_of_fits signed word hc hfit]
  rfl

/-! ### Disjoint fields -/

/-- Settles O30: the word a set answers agrees with the old word outside its field, hence inside every field disjoint
from it, and a get reads the bits inside its field only. -/
theorem disjointFieldsAreIndependent : Obligations.DisjointFieldsAreIndependent := by
  unfold Obligations.DisjointFieldsAreIndependent
  constructor
  · intro signed x y width lsb any s _ hagree
    exact exec_getAs_eq_of_agreeInside signed any s hagree
  · intro setSigned getSigned word width lsb val width' lsb' any s t hc hfit
    have houtside := insert_agreeOutside word (U lsb) (and_mask_high_bits_clear val (U width))
    exact ⟨_, exec_setAs_of_fits setSigned word s hc hfit, houtside, fun _ hdisjoint =>
      exec_getAs_eq_of_agreeInside getSigned any t (houtside.agreeInside_disjoint hdisjoint)⟩

end Sys2Proof.Machine
end

section
/-! The two packed formats, REQ and RSP (R60, R64, R70), and the operation code (R61). -/

namespace Sys2Proof

/-! ### Concatenations as numbers -/

/-- A concatenation as a number: the high part has the weight of the low part's width (R7). -/
theorem toNat_append_eq_add {m n : Nat} (x : BitVec m) (y : BitVec n) :
    (x ++ y).toNat = x.toNat * 2 ^ n + y.toNat := by
  rw [BitVec.toNat_append, ← Nat.shiftLeft_add_eq_or_of_lt y.isLt, Nat.shiftLeft_eq]

/-! ### The packed request -/

/-- The number of a packed request (R60). -/
theorem Request.pack_toNat (r : Request) :
    r.pack.toNat =
      r.op.toNat * 2 ^ 256 + U r.word * 2 ^ 192 + U r.width * 2 ^ 128 + U r.lsb * 2 ^ 64 + U r.val := by
  unfold Request.pack
  rw [toNat_append_eq_add, toNat_append_eq_add, toNat_append_eq_add, toNat_append_eq_add]
  ring

/-- A slice at or above bit 64 of a concatenation with a word is the slice 64 bits lower of the high part. -/
theorem extractLsb'_append_word {m : Nat} (x : BitVec m) (y : Word) (start len : Nat) :
    (x ++ y).extractLsb' (start + 64) len = x.extractLsb' start len := by
  rw [BitVec.extractLsb'_append_eq_of_le (Nat.le_add_left 64 start), Nat.add_sub_cancel]

/-- `val` stands at REQ[63:0] (R60). -/
@[simp] theorem Request.pack_val (r : Request) : r.pack.extractLsb' 0 64 = r.val :=
  BitVec.extractLsb'_append_eq_right

/-- `lsb` stands at REQ[127:64] (R60). -/
@[simp] theorem Request.pack_lsb (r : Request) : r.pack.extractLsb' 64 64 = r.lsb := by
  calc r.pack.extractLsb' 64 64
    _ = (r.op ++ r.word ++ r.width ++ r.lsb).extractLsb' 0 64 := extractLsb'_append_word _ _ 0 64
    _ = r.lsb := BitVec.extractLsb'_append_eq_right

/-- `width` stands at REQ[191:128] (R60). -/
@[simp] theorem Request.pack_width (r : Request) : r.pack.extractLsb' 128 64 = r.width := by
  calc r.pack.extractLsb' 128 64
    _ = (r.op ++ r.word ++ r.width ++ r.lsb).extractLsb' 64 64 := extractLsb'_append_word _ _ 64 64
    _ = (r.op ++ r.word ++ r.width).extractLsb' 0 64 := extractLsb'_append_word _ _ 0 64
    _ = r.width := BitVec.extractLsb'_append_eq_right

/-- `word` stands at REQ[255:192] (R60). -/
@[simp] theorem Request.pack_word (r : Request) : r.pack.extractLsb' 192 64 = r.word := by
  calc r.pack.extractLsb' 192 64
    _ = (r.op ++ r.word ++ r.width ++ r.lsb).extractLsb' 128 64 := extractLsb'_append_word _ _ 128 64
    _ = (r.op ++ r.word ++ r.width).extractLsb' 64 64 := extractLsb'_append_word _ _ 64 64
    _ = (r.op ++ r.word).extractLsb' 0 64 := extractLsb'_append_word _ _ 0 64
    _ = r.word := BitVec.extractLsb'_append_eq_right

/-- `op` stands at REQ[258:256] (R60). -/
@[simp] theorem Request.pack_op (r : Request) : r.pack.extractLsb' 256 3 = r.op := by
  calc r.pack.extractLsb' 256 3
    _ = (r.op ++ r.word ++ r.width ++ r.lsb).extractLsb' 192 3 := extractLsb'_append_word _ _ 192 3
    _ = (r.op ++ r.word ++ r.width).extractLsb' 128 3 := extractLsb'_append_word _ _ 128 3
    _ = (r.op ++ r.word).extractLsb' 64 3 := extractLsb'_append_word _ _ 64 3
    _ = r.op := BitVec.extractLsb'_append_eq_left

/-- Unpacking reads back the request that was packed (R60). -/
@[simp] theorem unpackRequest_pack (r : Request) : unpackRequest r.pack = r := by
  simp [unpackRequest]

/-- Settles O3: the number of the concatenation, and each field read back from its slice. -/
theorem packedRequestIsTheNumberOfItsFields : Obligations.PackedRequestIsTheNumberOfItsFields := by
  unfold Obligations.PackedRequestIsTheNumberOfItsFields
  intro r
  exact ⟨r.pack_toNat, r.pack_op, r.pack_word, r.pack_width, r.pack_lsb, r.pack_val, unpackRequest_pack r⟩

/-! ### The operation code -/

/-- The codes of R61's table, two to a family, are all the codes there are. -/
theorem opcode_families (op : BitVec 3) :
    (op = 0 ∨ op = 1) ∨ (op = 2 ∨ op = 3) ∨ (op = 4 ∨ op = 5) ∨ (op = 6 ∨ op = 7) := by
  revert op
  decide

/-- A class holds two codes, one of each signedness (R61). -/
theorem opClass_eq_iff (op : BitVec 3) (c : BitVec 2) :
    opClass op = c ↔ op = c ++ 0#1 ∨ op = c ++ 1#1 := by
  revert op c
  decide

/-- The unsigned codes are the odd ones (R61). -/
theorem opUnsigned_iff (op : BitVec 3) : opUnsigned op = true ↔ op = 1 ∨ op = 3 ∨ op = 5 ∨ op = 7 := by
  revert op
  decide

/-- Settles O4: each code's row is the decoder's arm for it, and a class is its two codes. -/
theorem operationCodeAloneSelectsTheRow : Obligations.OperationCodeAloneSelectsTheRow := by
  unfold Obligations.OperationCodeAloneSelectsTheRow
  constructor
  · intro word width lsb val
    exact ⟨rfl, rfl, rfl, rfl, rfl, rfl, rfl, rfl⟩
  · intro op
    exact ⟨opClass_eq_iff op 0b00, opClass_eq_iff op 0b01, opClass_eq_iff op 0b10, opClass_eq_iff op 0b11,
      opUnsigned_iff op⟩

end Sys2Proof

namespace Sys2Proof.Machine

/-! ### The packed response -/

/-- The number of a packed response (R64). -/
theorem packResponse_toNat (x : Response) :
    (packResponse x).toNat = (statusCode x).toNat * 2 ^ 64 + U (resultPort x) :=
  toNat_append_eq_add (statusCode x) (resultPort x)

/-- The status stands at RSP[65:64] (R64). -/
@[simp] theorem packResponse_status (x : Response) : (packResponse x).extractLsb' 64 2 = statusCode x :=
  BitVec.extractLsb'_append_eq_left

/-- The result stands at RSP[63:0] (R64). -/
@[simp] theorem packResponse_result (x : Response) : (packResponse x).extractLsb' 0 64 = resultPort x :=
  BitVec.extractLsb'_append_eq_right

/-- Unpacking reads back the response that was packed: no two responses share status and result (R65, R70). -/
@[simp] theorem unpackResponse_packResponse (x : Response) : unpackResponse (packResponse x) = some x := by
  unfold unpackResponse
  rw [packResponse_status, packResponse_result]
  cases x with
  | ok v => rfl
  | error c => cases c <;> rfl

/-- Where the status is not OK the result port is zero (R70). -/
theorem resultPort_eq_zero_of_statusCode_ne_zero {x : Response} (h : statusCode x ≠ 0) : resultPort x = 0 := by
  cases x with
  | ok v => exact absurd rfl h
  | error c => rfl

/-- Settles O6: the number of the concatenation, its two slices, and the response they determine. -/
theorem packedResponseIsStatusThenResult : Obligations.PackedResponseIsStatusThenResult := by
  unfold Obligations.PackedResponseIsStatusThenResult
  refine ⟨fun x => ?_, fun v => ⟨rfl, rfl⟩, rfl, rfl, rfl⟩
  exact ⟨packResponse_toNat x, packResponse_status x, packResponse_result x, unpackResponse_packResponse x,
    resultPort_eq_zero_of_statusCode_ne_zero⟩

/-! ### Operands that are not read -/

/-- `word` is read by GET and SET (R62). -/
theorem readsWord_iff (op : BitVec 3) : readsWord op = true ↔ (op = 2 ∨ op = 3) ∨ (op = 4 ∨ op = 5) := by
  simp only [readsWord, decide_eq_true_eq, or_assoc]

/-- `width` is read by FITS, GET and SET: by all but the reserved codes (R62). -/
theorem readsWidth_iff (op : BitVec 3) :
    readsWidth op = true ↔ (op = 0 ∨ op = 1) ∨ (op = 2 ∨ op = 3) ∨ (op = 4 ∨ op = 5) := by
  revert op
  decide

/-- `lsb` is read by GET and SET (R62). -/
theorem readsLsb_iff (op : BitVec 3) : readsLsb op = true ↔ (op = 2 ∨ op = 3) ∨ (op = 4 ∨ op = 5) := by
  simp only [readsLsb, decide_eq_true_eq, or_assoc]

/-- `val` is read by FITS and SET (R62). -/
theorem readsVal_iff (op : BitVec 3) : readsVal op = true ↔ (op = 0 ∨ op = 1) ∨ (op = 4 ∨ op = 5) := by
  simp only [readsVal, decide_eq_true_eq, or_assoc]

/-- A FITS answers from `width` and `val` alone (R63, R116). -/
theorem answerRequest_fits_congr {op : BitVec 3} (hop : op = 0 ∨ op = 1) (word word' width lsb lsb' val : Word) :
    answerRequest ⟨op, word, width, lsb, val⟩ = answerRequest ⟨op, word', width, lsb', val⟩ := by
  rcases hop with rfl | rfl
  · rfl
  · rfl

/-- A GET answers from `word`, `width` and `lsb` alone (R63). -/
theorem answerRequest_get_congr {op : BitVec 3} (hop : op = 2 ∨ op = 3) (word width lsb val val' : Word) :
    answerRequest ⟨op, word, width, lsb, val⟩ = answerRequest ⟨op, word, width, lsb, val'⟩ := by
  rcases hop with rfl | rfl
  · rfl
  · rfl

/-- A reserved code is answered BAD_OP whatever its operands (R67). -/
theorem answerRequest_reserved {op : BitVec 3} (hop : op = 6 ∨ op = 7) (word width lsb val : Word) :
    answerRequest ⟨op, word, width, lsb, val⟩ = .error .badOp := by
  rcases hop with rfl | rfl
  · rfl
  · rfl

/-- Requests that agree on the operands their code reads get the same response (R62, R63). -/
theorem answerRequest_eq_of_agree {r₁ r₂ : Request} (h : agreeOnReadOperands r₁ r₂) :
    answerRequest r₁ = answerRequest r₂ := by
  obtain ⟨op, word, width, lsb, val⟩ := r₁
  obtain ⟨_, word', width', lsb', val'⟩ := r₂
  obtain ⟨rfl, hword, hwidth, hlsb, hval⟩ := h
  rcases opcode_families op with hfits | hget | hset | hreserved
  · obtain rfl := hwidth ((readsWidth_iff op).2 (.inl hfits))
    obtain rfl := hval ((readsVal_iff op).2 (.inl hfits))
    exact answerRequest_fits_congr hfits ..
  · obtain rfl := hword ((readsWord_iff op).2 (.inl hget))
    obtain rfl := hwidth ((readsWidth_iff op).2 (.inr (.inl hget)))
    obtain rfl := hlsb ((readsLsb_iff op).2 (.inl hget))
    exact answerRequest_get_congr hget ..
  · obtain rfl := hword ((readsWord_iff op).2 (.inr hset))
    obtain rfl := hwidth ((readsWidth_iff op).2 (.inr (.inr hset)))
    obtain rfl := hlsb ((readsLsb_iff op).2 (.inr hset))
    obtain rfl := hval ((readsVal_iff op).2 (.inr hset))
    rfl
  · rw [answerRequest_reserved hreserved, answerRequest_reserved hreserved]

/-- Settles O38: each request is answered by its own response and nothing else happens, and the two responses are one. -/
theorem unreadOperandsDoNotMatter : Obligations.UnreadOperandsDoNotMatter := by
  unfold Obligations.UnreadOperandsDoNotMatter
  intro r₁ r₂ s hagree
  have hanswer : answer (decodeRequest r₁) = answer (decodeRequest r₂) := answerRequest_eq_of_agree hagree
  refine ⟨answerRequest r₁, exec_next_deliver _ s, ?_⟩
  rw [exec_next_deliver, ← hanswer]
  rfl

end Sys2Proof.Machine
end

section
/-! The shared datapath: the field check, and the functions of R91 to R97 as numbers. -/

namespace Sys2Proof.Machine

/-! ### The field check (R90) -/

/-- A 64-bit port whose bits from 7 on are zero carries a number of seven bits. -/
theorem portHigh_eq_zero_iff (x : Word) : x.extractLsb' 7 57 = 0#57 ↔ U x < 128 := by
  have hx : U x < 2 ^ 64 := x.isLt
  rw [← BitVec.toNat_inj, BitVec.extractLsb'_toNat, Nat.shiftRight_eq_div_pow, BitVec.toNat_zero]
  change U x / 2 ^ 7 % 2 ^ 57 = 0 ↔ U x < 128
  omega

/-- The low seven bits of a port that carries a number of seven bits, widened to the adder's eight, are that number. -/
theorem portLow_toNat {x : Word} (h : U x < 128) : ((x.extractLsb' 0 7).setWidth 8).toNat = U x := by
  rw [BitVec.toNat_setWidth, BitVec.extractLsb'_toNat, Nat.shiftRight_zero]
  change U x % 2 ^ 7 % 2 ^ 8 = U x
  omega

/-- Two numbers of seven bits do not overflow an 8-bit sum. -/
theorem portLow_sum_le_iff {width lsb : Word} (hw : U width < 128) (hl : U lsb < 128) :
    (width.extractLsb' 0 7).setWidth 8 + (lsb.extractLsb' 0 7).setWidth 8 ≤ 64#8 ↔ U lsb + U width ≤ 64 := by
  rw [BitVec.le_def, BitVec.toNat_add, portLow_toNat hw, portLow_toNat hl, BitVec.toNat_ofNat]
  omega

/-- Containment on the port bits (R90). -/
theorem fieldOk_iff_portBits (width lsb : Word) :
    fieldOk (U width) (U lsb) = true ↔
      width.extractLsb' 7 57 = 0#57 ∧ lsb.extractLsb' 7 57 = 0#57 ∧
        (width.extractLsb' 0 7).setWidth 8 + (lsb.extractLsb' 0 7).setWidth 8 ≤ 64#8 := by
  rw [fieldOk_iff, portHigh_eq_zero_iff, portHigh_eq_zero_iff]
  constructor
  · intro hcontained
    have hw : U width < 128 := by omega
    have hl : U lsb < 128 := by omega
    exact ⟨hw, hl, (portLow_sum_le_iff hw hl).2 hcontained⟩
  · rintro ⟨hw, hl, hsum⟩
    exact (portLow_sum_le_iff hw hl).1 hsum

/-- The hardware's check is containment (R90). -/
theorem fieldOk_eq_fieldOkBits (width lsb : Word) : fieldOk (U width) (U lsb) = fieldOkBits width lsb := by
  rw [Bool.eq_iff_iff, fieldOk_iff_portBits]
  simp only [fieldOkBits, Bool.and_eq_true, beq_iff_eq, decide_eq_true_eq, and_assoc]

/-- Settles O7: the exact sum, and on the ports two numbers of seven bits and their 8-bit sum. -/
theorem fieldCheckIsExactContainment : Obligations.FieldCheckIsExactContainment := by
  unfold Obligations.FieldCheckIsExactContainment
  refine ⟨fun w l => ?_, fun width lsb => ?_, by decide⟩
  · rw [fieldOk_iff]
    refine ⟨Iff.rfl, ?_, ?_⟩ <;> omega
  · exact ⟨fieldOk_iff_portBits width lsb, fieldOk_eq_fieldOkBits width lsb⟩

/-! ### The mask (R91) -/

/-- MASK as a number, for every width. -/
theorem mask_toNat (w : Nat) : U (mask w) = 2 ^ min w 64 - 1 := by
  apply Nat.eq_of_testBit_eq
  intro i
  rw [BitVec.testBit_toNat, mask_getLsbD, Nat.testBit_two_pow_sub_one, Bool.eq_iff_iff]
  simp

/-- The mask bounds the values that fit unsigned. -/
theorem fitsU_iff_le_mask (val : Word) (w : Nat) : fitsU (U val) w = true ↔ U val ≤ U (mask w) := by
  rw [fitsU_iff_le _ _ val.isLt, mask_toNat]
  rcases Nat.le_total w 64 with hw | hw
  · rw [Nat.min_eq_left hw]
  · have hpow : 2 ^ 64 ≤ 2 ^ w := Nat.pow_le_pow_right (by decide) hw
    have hval : U val < 2 ^ 64 := val.isLt
    rw [Nat.min_eq_right hw]
    omega

/-- Settles O8: the mask's number and bits, its values at 0 and 64, and the bound of the unsigned predicate. -/
theorem maskSetsTheLowBits : Obligations.MaskSetsTheLowBits := by
  unfold Obligations.MaskSetsTheLowBits
  refine ⟨fun w => ⟨fun hw => ?_, fun hw => ?_⟩, fun w i hi => ?_, by decide, by decide, fitsU_iff_le_mask⟩
  · rw [mask_toNat, Nat.min_eq_left hw]
  · rw [mask_toNat, Nat.min_eq_right hw.le]
  · rw [mask_getLsbD, decide_eq_true hi, Bool.and_true]

/-! ### The shifters (R92, R93) -/

/-- SHR as a number. -/
theorem shr_toNat (x : Word) (s : Nat) : U (shr x s) = U x / 2 ^ s := by
  rw [shr_eq_ushiftRight, U, BitVec.toNat_ushiftRight, Nat.shiftRight_eq_div_pow]

/-- SHL as a number. -/
theorem shl_toNat (x : Word) (s : Nat) : U (shl x s) = U x * 2 ^ s % 2 ^ 64 := by
  rw [shl_eq_shiftLeft, U, BitVec.toNat_shiftLeft, Nat.shiftLeft_eq]

/-- SHL of a pattern of `w` bits shifts nothing out while `s + w ≤ 64`. -/
theorem shl_toNat_of_contained {x : Word} {s w : Nat} (hsw : s + w ≤ 64) (hx : ∀ i, w ≤ i → x.getLsbD i = false) :
    U (shl x s) = U x * 2 ^ s := by
  have hlt : U x < 2 ^ w := Nat.lt_pow_two_of_testBit _ hx
  rw [shl_toNat]
  apply Nat.mod_eq_of_lt
  calc U x * 2 ^ s
    _ < 2 ^ w * 2 ^ s := Nat.mul_lt_mul_of_pos_right hlt (Nat.two_pow_pos s)
    _ = 2 ^ (s + w) := by rw [← Nat.pow_add, Nat.add_comm]
    _ ≤ 2 ^ 64 := Nat.pow_le_pow_right (by decide) hsw

/-- Settles O9: the quotient, the bits `s` places higher, and zeros beyond bit 63. -/
theorem rightShifterIsTotalAndLogical : Obligations.RightShifterIsTotalAndLogical := by
  unfold Obligations.RightShifterIsTotalAndLogical
  intro x s
  refine ⟨shr_toNat x s, fun i _ => ?_, fun hs => ?_, ?_⟩
  · rw [shr_getLsbD, Nat.add_comm s i]
    split
    · rfl
    · exact BitVec.getLsbD_of_ge _ _ (by omega)
  · exact (shr_eq_ushiftRight x s).trans (BitVec.ushiftRight_eq_zero hs)
  · rw [shr_eq_ushiftRight, BitVec.ushiftRight_zero]

/-- Settles O10: the product modulo `2^64`, exact where the pattern stays inside the word. -/
theorem leftShifterIsTotal : Obligations.LeftShifterIsTotal := by
  unfold Obligations.LeftShifterIsTotal
  intro x s
  refine ⟨shl_toNat x s, fun i hi => ?_, fun hs => ?_, ?_, fun w => shl_toNat_of_contained⟩
  · rw [shl_getLsbD]
    by_cases hs : s ≤ i
    · simp [hi, hs]
    · simp [hs, Nat.lt_of_not_le hs]
  · exact (shl_eq_shiftLeft x s).trans (BitVec.shiftLeft_eq_zero hs)
  · rw [shl_eq_shiftLeft, BitVec.shiftLeft_zero]

/-! ### The field mask (R97) -/

/-- FMASK of a contained field as a number. -/
theorem fmask_toNat {w l : Nat} (hc : l + w ≤ 64) : U (fmask w l) = (2 ^ w - 1) * 2 ^ l := by
  have hmask : ∀ i, w ≤ i → (mask w).getLsbD i = false := by
    intro i hi
    simp [mask_getLsbD, hi]
  calc U (fmask w l)
    _ = U (mask w) * 2 ^ l := shl_toNat_of_contained hc hmask
    _ = (2 ^ w - 1) * 2 ^ l := by rw [mask_toNat, Nat.min_eq_left (by omega)]

/-- A field of width 0 has no bits. -/
theorem fmask_zero (l : Nat) : fmask 0 l = 0 := by
  apply BitVec.eq_of_getLsbD_eq
  intro i _
  rw [fmask_getLsbD, ← Bool.decide_and, decide_eq_false (by omega), Bool.false_and]
  exact BitVec.getLsbD_zero.symm

/-- Settles O11: nothing of the mask is shifted out, and its bits are those of the field. -/
theorem fieldMaskCoversTheField : Obligations.FieldMaskCoversTheField := by
  unfold Obligations.FieldMaskCoversTheField
  refine ⟨fun w l => rfl, fun w l hc => ⟨fmask_toNat hc, fun i hi => ?_⟩, fmask_zero⟩
  rw [fmask_getLsbD, Bool.decide_and, decide_eq_true hi, Bool.and_true]

/-! ### Extraction (R94) -/

/-- EXTRACT as a number. -/
theorem extract_toNat (word : Word) (w l : Nat) : U (extract word w l) = U word / 2 ^ l % 2 ^ w := by
  apply Nat.eq_of_testBit_eq
  intro i
  rw [BitVec.testBit_toNat, extract_getLsbD, Nat.testBit_mod_two_pow, Nat.testBit_div_two_pow, BitVec.testBit_toNat,
    Nat.add_comm l i]

/-- The source's order, mask and then shift, extracts the same field (R94). -/
theorem extract_eq_shr_and_fmask (word : Word) (w l : Nat) : extract word w l = shr (word &&& fmask w l) l := by
  apply BitVec.eq_of_getLsbD_eq
  intro i _
  rw [extract_getLsbD, shr_getLsbD, BitVec.getLsbD_and, fmask_getLsbD]
  by_cases hi : l + i < 64
  · simp [hi, Bool.and_comm]
  · simp [BitVec.getLsbD_of_ge word (l + i) (by omega)]

/-- A field of width 0 extracts as 0. -/
theorem extract_zero (word : Word) (l : Nat) : extract word 0 l = 0 := by
  apply BitVec.eq_of_getLsbD_eq
  intro i _
  simp [extract_getLsbD]

/-- The field of width 64 is the word. -/
theorem extract_word (word : Word) : extract word 64 0 = word := by
  apply BitVec.eq_of_getLsbD_eq
  intro i hi
  rw [extract_getLsbD, Nat.zero_add, decide_eq_true hi, Bool.true_and]

/-- Settles O12: the field's bits at position 0 with zeros above, in either order of mask and shift. -/
theorem extractionMovesTheFieldDown : Obligations.ExtractionMovesTheFieldDown := by
  unfold Obligations.ExtractionMovesTheFieldDown
  refine ⟨fun word w l _ => ?_, fun word l _ => extract_zero word l, extract_word⟩
  refine ⟨rfl, extract_toNat word w l, fun i _ => ?_, extract_eq_shr_and_fmask word w l⟩
  rw [extract_getLsbD, Nat.add_comm l i]
  by_cases hi : i < w
  · simp [hi]
  · simp [hi]

/-! ### Sign extension (R95) -/

/-- A set sign bit fills the bits from `w` on. -/
theorem sext_of_signBit_set {f : Word} {w : Nat} (hw : 1 ≤ w) (hs : f.getLsbD (w - 1) = true) :
    sext w f = f ||| ~~~(mask w) := by
  rw [sext, if_neg (by omega), if_pos hs]

/-- A clear sign bit leaves the pattern as it is. -/
theorem sext_of_signBit_clear {f : Word} {w : Nat} (hw : 1 ≤ w) (hs : f.getLsbD (w - 1) = false) :
    sext w f = f := by
  rw [sext, if_neg (by omega), if_neg (by simp [hs])]

/-- A pattern of `w` bits, cut to `w` bits, is the same number. -/
theorem setWidth_toNat_of_clear {f : Word} {w : Nat} (hf : ∀ i, w ≤ i → f.getLsbD i = false) :
    (f.setWidth w).toNat = U f := by
  rw [BitVec.toNat_setWidth, Nat.mod_eq_of_lt (Nat.lt_pow_two_of_testBit _ hf)]

/-- The top bit of a word cut to `w` bits is bit `w - 1`. -/
theorem setWidth_msb (f : Word) {w : Nat} (hw : 1 ≤ w) : (f.setWidth w).msb = f.getLsbD (w - 1) := by
  rw [BitVec.msb_eq_getLsbD_last, BitVec.getLsbD_setWidth, decide_eq_true (by omega), Bool.true_and]

/-- sext of a pattern of `w` bits is the sign extension of that `w`-bit vector. -/
theorem sext_eq_signExtend {f : Word} {w : Nat} (hw : 1 ≤ w) (hf : ∀ i, w ≤ i → f.getLsbD i = false) :
    sext w f = (f.setWidth w).signExtend 64 := by
  apply BitVec.eq_of_getLsbD_eq
  intro i hi
  rw [sext_getLsbD w f i hw hf, BitVec.getLsbD_signExtend, setWidth_msb f hw, BitVec.getLsbD_setWidth]
  by_cases hiw : i < w
  · simp [hiw, hi]
  · simp [hiw]

/-- The signed reading of sext is that of the `w`-bit vector. -/
theorem sext_toInt {f : Word} {w : Nat} (hw : 1 ≤ w) (hw64 : w ≤ 64) (hf : ∀ i, w ≤ i → f.getLsbD i = false) :
    S (sext w f) = (f.setWidth w).toInt := by
  rw [sext_eq_signExtend hw hf, S, BitVec.toInt_signExtend_of_le hw64]

/-- sext as a number: that of the pattern, less `2^w` where its sign bit is set. -/
theorem sext_toInt_eq_sub {f : Word} {w : Nat} (hw : 1 ≤ w) (hw64 : w ≤ 64) (hf : ∀ i, w ≤ i → f.getLsbD i = false) :
    S (sext w f) = (U f : Int) - (if f.getLsbD (w - 1) then 2 ^ w else 0) := by
  rw [sext_toInt hw hw64 hf, BitVec.toInt_eq_msb_cond, setWidth_msb f hw, setWidth_toNat_of_clear hf]
  split
  · rw [Nat.cast_pow, Nat.cast_ofNat]
  · rw [sub_zero]

/-- sext lies in the two's-complement range of its width. -/
theorem sext_toInt_range {f : Word} {w : Nat} (hw : 1 ≤ w) (hw64 : w ≤ 64) (hf : ∀ i, w ≤ i → f.getLsbD i = false) :
    -(2 ^ (w - 1) : Int) ≤ S (sext w f) ∧ S (sext w f) ≤ (2 ^ (w - 1) : Int) - 1 := by
  rw [sext_toInt hw hw64 hf]
  exact ⟨BitVec.le_toInt _, Int.le_sub_one_of_lt BitVec.toInt_lt⟩

/-- At width 0 sext is 0. -/
theorem sext_width_zero (f : Word) : sext 0 f = 0 := rfl

/-- At width 64 there is nothing to fill. -/
theorem sext_width_word (f : Word) : sext 64 f = f := by
  rw [sext_eq_signExtend (by decide) (fun i hi => BitVec.getLsbD_of_ge f i hi), BitVec.setWidth_eq,
    BitVec.signExtend_eq]

/-- The sign bit of a field in the unshifted word (R95). -/
theorem extract_signBit (word : Word) {w : Nat} (l : Nat) (hw : 1 ≤ w) :
    (extract word w l).getLsbD (w - 1) = word.getLsbD (l + w - 1) := by
  rw [extract_getLsbD, decide_eq_true (by omega), Bool.true_and, Nat.add_sub_assoc hw]

/-- Settles O13: sext is the sign extension of the `w`-bit vector, whose value and range are two's complement's. -/
theorem signExtensionFillsWithTheTopBit : Obligations.SignExtensionFillsWithTheTopBit := by
  unfold Obligations.SignExtensionFillsWithTheTopBit
  refine ⟨fun f w hw hw64 hf => ?_, sext_width_word, sext_width_zero, fun word w l hw _ => extract_signBit word l hw⟩
  obtain ⟨hlow, hhigh⟩ := sext_toInt_range hw hw64 hf
  refine ⟨sext_of_signBit_set hw, sext_of_signBit_clear hw, sext_toInt_eq_sub hw hw64 hf, hlow, hhigh, fun i hi => ?_⟩
  rw [sext_getLsbD w f i hw hf, decide_eq_true hi, Bool.true_and]

/-! ### Insertion (R96) -/

/-- A word as the bits above a field, the field, and the bits below it. -/
theorem word_eq_above_field_below (x : Word) (w l : Nat) :
    U x = U x / 2 ^ (l + w) * 2 ^ (l + w) + U (extract x w l) * 2 ^ l + U x % 2 ^ l := by
  have hmod : U x % 2 ^ (l + w) = U x % 2 ^ l + 2 ^ l * U (extract x w l) := by
    rw [extract_toNat, Nat.pow_add, Nat.mod_mul]
  have hdiv : 2 ^ (l + w) * (U x / 2 ^ (l + w)) + U x % 2 ^ (l + w) = U x := Nat.div_add_mod ..
  linarith

/-- Words that agree outside a field differ, as numbers, by their fields alone. -/
theorem agreeOutside.toNat_eq {w l : Nat} {x y : Word} (h : agreeOutside w l x y) :
    U x + U (extract y w l) * 2 ^ l = U y + U (extract x w l) * 2 ^ l := by
  have habove : U x / 2 ^ (l + w) = U y / 2 ^ (l + w) := by
    apply Nat.eq_of_testBit_eq
    intro i
    rw [Nat.testBit_div_two_pow, Nat.testBit_div_two_pow]
    exact h _ (.inr (by omega))
  have hbelow : U x % 2 ^ l = U y % 2 ^ l := by
    apply Nat.eq_of_testBit_eq
    intro i
    rw [Nat.testBit_mod_two_pow, Nat.testBit_mod_two_pow, BitVec.testBit_toNat, BitVec.testBit_toNat]
    by_cases hi : i < l
    · rw [h i (.inl hi)]
    · simp [hi]
  have hx := word_eq_above_field_below x w l
  have hy := word_eq_above_field_below y w l
  rw [habove, hbelow] at hx
  omega

/-- What was inserted in a contained field is what is extracted from it. -/
theorem extract_insert (word : Word) {p : Word} {w l : Nat} (hc : l + w ≤ 64) (hp : ∀ i, w ≤ i → p.getLsbD i = false) :
    extract (insert word w l p) w l = p := by
  apply BitVec.eq_of_getLsbD_eq
  intro i _
  rw [extract_getLsbD, insert_getLsbD, Nat.add_sub_cancel_left]
  by_cases hi : i < w
  · simp [hi, show l + i < 64 by omega]
  · simp [hi, hp i (by omega)]

/-- INSERT as a number: the old field taken off, the pattern put in its place. -/
theorem insert_toNat_eq (word : Word) {p : Word} {w l : Nat} (hc : l + w ≤ 64)
    (hp : ∀ i, w ≤ i → p.getLsbD i = false) :
    (U (insert word w l p) : Int) = U word - (U word / 2 ^ l % 2 ^ w : Nat) * 2 ^ l + U p * 2 ^ l := by
  have hnat := (insert_agreeOutside word l hp).toNat_eq
  rw [extract_insert word hc hp, extract_toNat] at hnat
  have hint : (U (insert word w l p) : Int) + (U word / 2 ^ l % 2 ^ w : Nat) * 2 ^ l = U word + U p * 2 ^ l := by
    exact_mod_cast hnat
  linarith

/-- INSERT bit by bit: the pattern inside the field, the word outside it. -/
theorem insert_getLsbD_of_clear (word : Word) {p : Word} {w l : Nat} (hp : ∀ i, w ≤ i → p.getLsbD i = false) (i : Nat)
    (hi : i < 64) :
    (insert word w l p).getLsbD i = if l ≤ i ∧ i < l + w then p.getLsbD (i - l) else word.getLsbD i := by
  by_cases hinside : l ≤ i ∧ i < l + w
  · rw [insert_getLsbD, if_pos hinside]
    simp [hinside, hi]
  · rw [if_neg hinside]
    exact insert_agreeOutside word l hp i (by omega)

/-- Inserting the empty pattern in a field of width 0 changes nothing. -/
theorem insert_width_zero (word : Word) (l : Nat) : insert word 0 l 0 = word := by
  apply BitVec.eq_of_getLsbD_eq
  intro i _
  exact insert_agreeOutside word l (fun _ _ => BitVec.getLsbD_zero) i (by omega)

/-- Inserting in the field of width 64 replaces the word. -/
theorem insert_width_word (word p : Word) : insert word 64 0 p = p := by
  rw [← extract_word (insert word 64 0 p)]
  exact extract_insert word (by decide) fun i hi => BitVec.getLsbD_of_ge p i hi

/-- Settles O14: the word outside the field is kept, and the field holds the pattern. -/
theorem insertionReplacesTheField : Obligations.InsertionReplacesTheField := by
  unfold Obligations.InsertionReplacesTheField
  refine ⟨fun word p w l hc hp => ?_, fun word l _ => insert_width_zero word l, insert_width_word⟩
  exact ⟨rfl, insert_getLsbD_of_clear word hp, insert_toNat_eq word hc hp⟩

end Sys2Proof.Machine
end

section
/-! The fits family (R110 to R116): the two predicates on bits, and the answers of FITS.S and FITS.U. -/

namespace Sys2Proof.Machine

/-! ### The predicates on a port value -/

/-- Every value fits signed from width 64 on (R110). -/
theorem fitsS_of_wide (n : Int) {w : Nat} (hw : 64 ≤ w) : fitsS n w = true := by
  rw [fitsS, if_neg (by omega), if_pos hw]

/-- Every value fits unsigned from width 64 on (R112). -/
theorem fitsU_of_wide (n : Nat) {w : Nat} (hw : 64 ≤ w) : fitsU n w = true := if_pos hw

/-- Only 0 fits signed in width 0 (R110). -/
theorem fitsS_zero_iff (n : Int) : fitsS n 0 = true ↔ n = 0 := decide_eq_true_iff

/-- Only 0 fits unsigned in width 0 (R112). -/
theorem fitsU_zero_iff (n : Nat) : fitsU n 0 = true ↔ n = 0 := decide_eq_true_iff.trans Nat.le_zero

/-- The signed reading of a port value fits exactly in the two's-complement range, for every width from 1 (R110). -/
theorem fitsS_toInt_iff_range (val : Word) {w : Nat} (hw : 1 ≤ w) :
    fitsS (S val) w = true ↔ -(2 : Int) ^ (w - 1) ≤ S val ∧ S val ≤ (2 : Int) ^ (w - 1) - 1 :=
  fitsS_iff_range (S val) w (BitVec.le_toInt val) (Int.le_sub_one_of_lt BitVec.toInt_lt) hw

/-- A value fits unsigned exactly in the range of the width, for every width (R112). -/
theorem fitsU_iff_range {n : Nat} (w : Nat) (hn : n < 2 ^ 64) :
    fitsU n w = true ↔ 0 ≤ (n : Int) ∧ (n : Int) ≤ (2 : Int) ^ w - 1 := by
  have hcast : ((2 ^ w - 1 : Nat) : Int) = (2 : Int) ^ w - 1 := by
    rw [Nat.cast_sub Nat.one_le_two_pow, Nat.cast_pow, Nat.cast_ofNat, Nat.cast_one]
  rw [fitsU_iff_le n w hn, ← Int.ofNat_le, hcast]
  exact (and_iff_right (Int.natCast_nonneg n)).symm

/-- A non-negative value fits signed where it fits unsigned in one bit less (R117). -/
theorem fitsS_natCast_iff {n w : Nat} (hn : n < 2 ^ 63) (hw : 1 ≤ w) :
    fitsS (n : Int) w = true ↔ fitsU n (w - 1) = true := by
  have hpos : (0 : Int) < 2 ^ (w - 1) := pow_pos (by decide) _
  rw [fitsS_iff_range n w (by omega) (by omega) hw, fitsU_iff_range (w - 1) (by omega)]
  omega

/-- The two's-complement range is symmetric under bitwise NOT, which takes `n` to `-n - 1` (R117). -/
theorem fitsS_neg_sub_one (n : Int) {w : Nat} (hw : 1 ≤ w) : fitsS (-n - 1) w = true ↔ fitsS n w = true := by
  by_cases h64 : 64 ≤ w
  · rw [fitsS_of_wide _ h64, fitsS_of_wide _ h64]
  · simp only [fitsS, if_neg (show ¬ w = 0 by omega), if_neg h64, Bool.and_eq_true, decide_eq_true_eq]
    omega

/-! ### The bits at and above an index (R91) -/

/-- The bits of `NOT MASK(k)` are those from `k` on. -/
theorem not_mask_getLsbD (k i : Nat) : (~~~(mask k)).getLsbD i = (decide (k ≤ i) && decide (i < 64)) := by
  rw [BitVec.getLsbD_not, mask_getLsbD, Bool.eq_iff_iff]
  simp only [Bool.and_eq_true, Bool.not_eq_true', Bool.and_eq_false_iff, decide_eq_true_eq, decide_eq_false_iff_not]
  omega

/-- `val AND NOT MASK(k)` keeps the bits from `k` on and clears the others. -/
theorem and_not_mask_getLsbD (val : Word) (k i : Nat) :
    (val &&& ~~~(mask k)).getLsbD i = (decide (k ≤ i) && val.getLsbD i) := by
  rw [BitVec.getLsbD_and, not_mask_getLsbD]
  by_cases hi : i < 64
  · simp [hi, Bool.and_comm]
  · simp [BitVec.getLsbD_of_ge val i (by omega)]

/-- No bit from `k` on is set. -/
theorem and_not_mask_eq_zero_iff (val : Word) (k : Nat) :
    val &&& ~~~(mask k) = 0 ↔ ∀ i, k ≤ i → val.getLsbD i = false := by
  simp only [BitVec.eq_of_getLsbD_eq_iff, and_not_mask_getLsbD, BitVec.ofNat_eq_ofNat, BitVec.getLsbD_zero,
    Bool.and_eq_false_imp, decide_eq_true_eq]
  exact ⟨fun h i hi => (Nat.lt_or_ge i 64).elim (h i · hi) (BitVec.getLsbD_of_ge val i), fun h i _ => h i⟩

/-- Every bit from `k` on is set. -/
theorem and_not_mask_eq_not_mask_iff (val : Word) (k : Nat) :
    val &&& ~~~(mask k) = ~~~(mask k) ↔ ∀ i, k ≤ i → i < 64 → val.getLsbD i = true := by
  simp only [BitVec.eq_of_getLsbD_eq_iff, and_not_mask_getLsbD, not_mask_getLsbD]
  refine forall_congr' fun i => ?_
  by_cases hk : k ≤ i <;> by_cases hi : i < 64 <;> simp [hk, hi]

/-! ### The predicates on bits (R114, R115) -/

/-- Bitwise NOT takes the signed reading to its negative less one. -/
theorem not_toInt (val : Word) : S (~~~val) = -S val - 1 := by
  have hlt := val.isLt
  have hmsb : (~~~val).msb = !val.msb := by simp
  rw [S, S, BitVec.toInt_eq_msb_cond, BitVec.toInt_eq_msb_cond, BitVec.toNat_not, hmsb]
  cases val.msb with
  | true => rw [if_neg (by decide), if_pos rfl]; omega
  | false => rw [if_pos (by decide), if_neg (by decide)]; omega

/-- A value with a clear sign bit fits signed where its bits from `w - 1` on are all 0. -/
theorem fitsS_iff_high_bits_clear {val : Word} {w : Nat} (hs : val.msb = false) (hw : 1 ≤ w) :
    fitsS (S val) w = true ↔ ∀ i, w - 1 ≤ i → val.getLsbD i = false := by
  have hlt : U val < 2 ^ 63 := BitVec.toNat_lt_of_msb_false hs
  rw [S, BitVec.toInt_eq_toNat_of_msb hs, fitsS_natCast_iff hlt hw, fitsU_iff_high_bits_clear]

/-- A value with a set sign bit fits signed where its bits from `w - 1` on are all 1. -/
theorem fitsS_iff_high_bits_set {val : Word} {w : Nat} (hs : val.msb = true) (hw : 1 ≤ w) :
    fitsS (S val) w = true ↔ ∀ i, w - 1 ≤ i → i < 64 → val.getLsbD i = true := by
  have hnot : (~~~val).msb = false := by rw [BitVec.msb_not, hs]; rfl
  rw [← fitsS_neg_sub_one _ hw, ← not_toInt, fitsS_iff_high_bits_clear hnot hw]
  simp only [BitVec.getLsbD_not, Bool.and_eq_false_imp, decide_eq_true_eq, Bool.not_eq_false']

/-- The signed predicate on bits: `val[63 : w-1]` are copies of the sign bit (R114). -/
theorem fitsS_iff_high_bits_eq_msb (val : Word) {w : Nat} (hw : 1 ≤ w) :
    fitsS (S val) w = true ↔ ∀ i, w - 1 ≤ i → i < 64 → val.getLsbD i = val.msb := by
  cases hs : val.msb with
  | true => exact fitsS_iff_high_bits_set hs hw
  | false =>
    rw [fitsS_iff_high_bits_clear hs hw]
    exact ⟨fun h i hi _ => h i hi, fun h i hi => (Nat.lt_or_ge i 64).elim (h i hi) (BitVec.getLsbD_of_ge val i)⟩

/-- The same, with no bit singled out: `val[63 : w-1]` are all equal (R114). -/
theorem fitsS_iff_high_bits_all_equal (val : Word) {w : Nat} (hw : 1 ≤ w) :
    fitsS (S val) w = true ↔
      ∀ i j, w - 1 ≤ i → i < 64 → w - 1 ≤ j → j < 64 → val.getLsbD i = val.getLsbD j := by
  rw [fitsS_iff_high_bits_eq_msb val hw]
  constructor
  · intro h i j hi hi64 hj hj64
    exact (h i hi hi64).trans (h j hj hj64).symm
  · intro h i hi hi64
    rw [BitVec.msb_eq_getLsbD_last]
    exact h i 63 hi hi64 (by omega) (by decide)

/-- The signed predicate with the mask: the sign bit says which of the two forms can hold (R114). -/
theorem fitsS_iff_and_not_mask (val : Word) {w : Nat} (hw : 1 ≤ w) :
    fitsS (S val) w = true ↔
      val &&& ~~~(mask (w - 1)) = 0 ∨ val &&& ~~~(mask (w - 1)) = ~~~(mask (w - 1)) := by
  rw [and_not_mask_eq_zero_iff, and_not_mask_eq_not_mask_iff]
  constructor
  · intro hfits
    cases hs : val.msb with
    | false => exact .inl ((fitsS_iff_high_bits_clear hs hw).1 hfits)
    | true => exact .inr ((fitsS_iff_high_bits_set hs hw).1 hfits)
  · rw [fitsS_iff_high_bits_all_equal val hw]
    rintro (hclear | hset) i j hi hi64 hj hj64
    · rw [hclear i hi, hclear j hj]
    · rw [hset i hi hi64, hset j hj hj64]

/-- Settles O15: a value that fits signed is all sign bit from `w - 1` on, one that fits unsigned all zeros from `w` on. -/
theorem fitsPredicatesOnBits : Obligations.FitsPredicatesOnBits := by
  unfold Obligations.FitsPredicatesOnBits
  refine ⟨fun val w hw => ?_, fun val => ?_, fun val w => ?_, fun val => ?_⟩
  · exact ⟨fitsS_iff_high_bits_all_equal val hw, fitsS_iff_and_not_mask val hw, fitsS_of_wide _⟩
  · exact (fitsS_zero_iff _).trans (BitVec.toInt_inj (y := 0))
  · have hbits := fitsU_iff_high_bits_clear val w
    exact ⟨hbits.trans (and_not_mask_eq_zero_iff val w).symm, hbits, fitsU_of_wide _⟩
  · exact (fitsU_zero_iff _).trans (BitVec.toNat_inj (y := 0))

/-! ### The answers of FITS.S and FITS.U -/

/-- A FITS of either signedness completes with its predicate as 1 or 0, and all else is as it was (R111, R113, R116). -/
theorem exec_fitsAs (signed : Bool) (word width lsb val : Word) (s : State) :
    exec (fitsAs signed word width lsb val) s =
      .next (s.answered (.ok (if valueFits signed val (U width) then 1 else 0))) := by
  rw [exec_next_deliver]
  cases signed <;> rfl

/-- Settles O16: the answer is `fitsS`, whose cases of R110 are the range from width 1 on. -/
theorem fitsSignedAnswersTheRange : Obligations.FitsSignedAnswersTheRange := by
  unfold Obligations.FitsSignedAnswersTheRange
  intro word width lsb val s
  have hrange := fun hw : 1 ≤ U width => fitsS_toInt_iff_range val hw
  refine ⟨rfl, fitsS (S val) (U width), exec_fitsAs true word width lsb val s, fun hw _ => hrange hw, fitsS_of_wide _,
    fun hzero => ?_, hrange, rfl⟩
  rw [hzero, fitsS_zero_iff]

/-- Settles O17: the answer is `fitsU`, whose bound is `2^w - 1` at every width. -/
theorem fitsUnsignedAnswersTheRange : Obligations.FitsUnsignedAnswersTheRange := by
  unfold Obligations.FitsUnsignedAnswersTheRange
  intro word width lsb val s
  refine ⟨rfl, fitsU (U val) (U width), exec_fitsAs false word width lsb val s, fitsU_iff_range _ val.isLt,
    fitsU_of_wide _, fun hzero => ?_, rfl⟩
  rw [hzero, fitsU_zero_iff]

/-- Settles O18: the answer of either FITS is OK with a boolean. -/
theorem fitsNeverFails : Obligations.FitsNeverFails := by
  unfold Obligations.FitsNeverFails
  intro signed word width lsb val s
  refine ⟨_, exec_fitsAs signed word width lsb val s, ?_⟩
  split
  · exact .inr rfl
  · exact .inl rfl

end Sys2Proof.Machine
end

section
/-! The get family (R120 to R124): the field as an unsigned and as a signed number, and the answers of GET.S and GET.U. -/

namespace Sys2Proof.Machine

/-! ### The field that is got -/

/-- An extracted field has no bit at or above its width (R94). -/
theorem extract_high_bits_clear (word : Word) (w l : Nat) : ∀ i, w ≤ i → (extract word w l).getLsbD i = false :=
  and_mask_high_bits_clear (shr word l) w

/-- The sign bit of an extracted field is the top bit of the field's number (R94, R120). -/
theorem extract_signBit_eq_testBit (word : Word) (w l : Nat) :
    (extract word w l).getLsbD (w - 1) = (U word / 2 ^ l % 2 ^ w).testBit (w - 1) := by
  rw [← extract_toNat]
  rfl

/-- The sign-extended field as a number: the field's, less `2^w` where its top bit is set (R120). -/
theorem sext_extract_toInt (word : Word) {w l : Nat} (hw : 1 ≤ w) (hc : l + w ≤ 64) :
    S (sext w (extract word w l)) = (U word / 2 ^ l % 2 ^ w : Nat) -
      (if (U word / 2 ^ l % 2 ^ w).testBit (w - 1) then (2 : Int) ^ w else 0) := by
  rw [sext_toInt_eq_sub hw (by omega) (extract_high_bits_clear word w l), extract_signBit_eq_testBit, extract_toNat]

/-! ### The fill (R95, R122) -/

/-- The sign bit of a pattern of `w` bits tells the upper half of its range. -/
theorem signBit_eq_decide_le {f : Word} {w : Nat} (hw : 1 ≤ w) (hf : ∀ i, w ≤ i → f.getLsbD i = false) :
    f.getLsbD (w - 1) = decide (2 ^ (w - 1) ≤ U f) := by
  rw [← setWidth_msb f hw, BitVec.msb_eq_decide, setWidth_toNat_of_clear hf]

/-- In the lower half of the range the signed reading is the unsigned one. -/
theorem sext_toInt_of_lt {f : Word} {w : Nat} (hw : 1 ≤ w) (hw64 : w ≤ 64) (hf : ∀ i, w ≤ i → f.getLsbD i = false)
    (hlt : U f < 2 ^ (w - 1)) : S (sext w f) = U f := by
  rw [sext_toInt_eq_sub hw hw64 hf, signBit_eq_decide_le hw hf, decide_eq_false (Nat.not_le.2 hlt),
    if_neg Bool.false_ne_true, sub_zero]

/-- In the upper half of the range the signed reading is the unsigned one less `2^w`. -/
theorem sext_toInt_of_le {f : Word} {w : Nat} (hw : 1 ≤ w) (hw64 : w ≤ 64) (hf : ∀ i, w ≤ i → f.getLsbD i = false)
    (hle : 2 ^ (w - 1) ≤ U f) : S (sext w f) = (U f : Int) - 2 ^ w := by
  rw [sext_toInt_eq_sub hw hw64 hf, signBit_eq_decide_le hw hf, decide_eq_true hle, if_pos rfl]

/-- The sign extension of a pattern of `w` bits fits signed in `w` bits, width 0 included (R123). -/
theorem fitsS_sext {f : Word} {w : Nat} (hw64 : w ≤ 64) (hf : ∀ i, w ≤ i → f.getLsbD i = false) :
    fitsS (S (sext w f)) w = true := by
  rcases Nat.eq_zero_or_pos w with rfl | hw
  · rw [sext_width_zero, fitsS_zero_iff]
    exact BitVec.toInt_zero
  · exact (fitsS_toInt_iff_range _ hw).2 (sext_toInt_range hw hw64 hf)

/-! ### The answers of GET.S and GET.U -/

/-- All that a get of either signedness can answer: the field, sign-extended where it is signed, or BAD_FIELD
(R120, R121). -/
theorem answer_getAs_cases (signed : Bool) (word width lsb val : Word) :
    answer (getAs signed word width lsb val) =
      if U lsb + U width ≤ 64 then
        .ok (if signed then sext (U width) (extract word (U width) (U lsb)) else extract word (U width) (U lsb))
      else .error .badField := by
  cases signed with
  | true => exact answerGetS_cases word width lsb val
  | false => exact answerGetU_cases word width lsb val

/-- A get whose field is contained completes with the field, and all else is as it was (R120, R121, R147). -/
theorem exec_getAs_of_contained (signed : Bool) (word : Word) {width lsb : Word} (val : Word) (s : State)
    (hc : U lsb + U width ≤ 64) :
    exec (getAs signed word width lsb val) s =
      .next (s.answered (.ok (if signed then sext (U width) (extract word (U width) (U lsb))
        else extract word (U width) (U lsb)))) := by
  rw [exec_next_deliver, answer_getAs_cases, if_pos hc]
  rfl

/-- A get whose field is not contained completes with BAD_FIELD, and all else is as it was (R120, R121, R147). -/
theorem exec_getAs_of_not_contained (signed : Bool) (word : Word) {width lsb : Word} (val : Word) (s : State)
    (hc : 64 < U lsb + U width) :
    exec (getAs signed word width lsb val) s = .next (s.answered (.error .badField)) := by
  rw [exec_next_deliver, answer_getAs_cases, if_neg (Nat.not_le.2 hc)]
  rfl

/-- Settles O20: the answer is the extracted field, whose number and clear high bits are EXTRACT's. -/
theorem getUnsignedReturnsTheField : Obligations.GetUnsignedReturnsTheField := by
  unfold Obligations.GetUnsignedReturnsTheField
  intro word width lsb val s
  refine ⟨rfl, fun hc => ?_, exec_getAs_of_not_contained false word val s⟩
  exact ⟨_, exec_getAs_of_contained false word val s hc, rfl, extract_toNat word _ _,
    extract_high_bits_clear word _ _⟩

/-- Settles O21: the answer is the sign-extended field, a two's-complement number from width 1 on and 0 at width 0. -/
theorem getSignedReturnsTheSignedField : Obligations.GetSignedReturnsTheSignedField := by
  unfold Obligations.GetSignedReturnsTheSignedField
  intro word width lsb val s
  refine ⟨rfl, fun hc => ?_, exec_getAs_of_not_contained true word val s⟩
  refine ⟨sext (U width) (extract word (U width) (U lsb)), exec_getAs_of_contained true word val s hc, rfl,
    fun hw => sext_extract_toInt word hw hc, fun hzero => ?_⟩
  rw [hzero, sext_width_zero]

/-- Settles O22: both answers are made of one extracted field, and sext keeps its bits and copies its top bit above. -/
theorem getPairDiffersOnlyInTheFill : Obligations.GetPairDiffersOnlyInTheFill := by
  unfold Obligations.GetPairDiffersOnlyInTheFill
  intro word width lsb val s
  refine ⟨fun hc => ?_, fun hc =>
    ⟨exec_getAs_of_not_contained false word val s hc, exec_getAs_of_not_contained true word val s hc⟩⟩
  have hclear := extract_high_bits_clear word (U width) (U lsb)
  have hw64 : U width ≤ 64 := by omega
  refine ⟨extract word (U width) (U lsb), sext (U width) (extract word (U width) (U lsb)),
    exec_getAs_of_contained false word val s hc, exec_getAs_of_contained true word val s hc,
    fun hw => ⟨rfl, fun i hi => ?_, fun i hi hi64 => ⟨hclear i hi, ?_⟩, sext_toInt_of_lt hw hw64 hclear,
      sext_toInt_of_le hw hw64 hclear⟩, fun hword => ?_, fun hzero => ?_⟩
  · rw [sext_getLsbD _ _ _ hw hclear, if_pos hi]
  · rw [sext_getLsbD _ _ _ hw hclear, if_neg (Nat.not_lt.2 hi), decide_eq_true hi64, Bool.true_and]
  · rw [hword, sext_width_word]
  · rw [hzero, sext_width_zero, extract_zero]
    exact ⟨rfl, rfl⟩

/-- Settles O23: the field has no bit above its width, and its sign extension lies in the width's signed range. -/
theorem whatIsGotFits : Obligations.WhatIsGotFits := by
  unfold Obligations.WhatIsGotFits
  intro word width lsb val s hc
  have hclear := extract_high_bits_clear word (U width) (U lsb)
  constructor
  · exact ⟨_, exec_getAs_of_contained true word val s hc, fitsS_sext (by omega) hclear⟩
  · exact ⟨_, exec_getAs_of_contained false word val s hc, (fitsU_iff_high_bits_clear _ _).2 hclear⟩

/-- Settles O24: a contained get completes, and runs alike on words that agree inside its field. -/
theorem getReadsItsFieldOnly : Obligations.GetReadsItsFieldOnly := by
  unfold Obligations.GetReadsItsFieldOnly
  intro signed x y width lsb val s hc hagree
  have hx := exec_getAs_of_contained signed x val s hc
  exact ⟨_, hx, (exec_getAs_eq_of_agreeInside signed val s hagree).symm.trans hx⟩

end Sys2Proof.Machine
end

section
/-! The set family (R130 to R135): the pattern a set inserts, INSERT over INSERT, and the answers of SET.S and SET.U. -/

namespace Sys2Proof.Machine

/-! ### The pattern as a number (R131) -/

/-- A masked pattern as a number. -/
theorem and_mask_toNat (val : Word) (w : Nat) : U (val &&& mask w) = U val % 2 ^ w := by
  have hextract : extract val w 0 = val &&& mask w := by
    rw [extract, shr_eq_ushiftRight, BitVec.ushiftRight_zero]
  rw [← hextract, extract_toNat, Nat.pow_zero, Nat.div_one]

/-- The masked pattern is the signed value modulo `2^w`: the two readings of a word differ by a multiple of `2^64`. -/
theorem and_mask_toNat_eq_toInt_emod (val : Word) {w : Nat} (hw64 : w ≤ 64) :
    (U (val &&& mask w) : Int) = S val % (2 : Int) ^ w := by
  have hdvd : (2 : Int) ^ w ∣ ((2 ^ 64 : Nat) : Int) := pow_dvd_pow 2 hw64
  calc (U (val &&& mask w) : Int)
    _ = (U val : Int) % 2 ^ w := by rw [and_mask_toNat, Int.natCast_mod, Nat.cast_pow, Nat.cast_ofNat]
    _ = (U val : Int) % (2 ^ 64 : Nat) % 2 ^ w := (Int.emod_emod_of_dvd _ hdvd).symm
    _ = S val % (2 ^ 64 : Nat) % 2 ^ w := by rw [S, BitVec.toInt_eq_toNat_bmod, Int.bmod_emod]
    _ = S val % 2 ^ w := Int.emod_emod_of_dvd _ hdvd

/-- The word of the signed value modulo `2^w` is the masked pattern (R135). -/
theorem bits64_toInt_emod (val : Word) {w : Nat} (hw64 : w ≤ 64) :
    bits64 (S val % (2 : Int) ^ w) = val &&& mask w := by
  rw [← and_mask_toNat_eq_toInt_emod val hw64, bits64, BitVec.ofInt_natCast, BitVec.ofNat_toNat, BitVec.setWidth_eq]

/-- A masked pattern fits unsigned (R115). -/
theorem fitsU_and_mask (val : Word) (w : Nat) : fitsU (U (val &&& mask w)) w = true :=
  (fitsU_iff_high_bits_clear _ w).2 (and_mask_high_bits_clear val w)

/-! ### Values that fit signed (R131, R135) -/

/-- The signed reading is not negative where the sign bit is clear. -/
theorem msb_eq_false_of_toInt_nonneg {val : Word} (h : 0 ≤ S val) : val.msb = false :=
  BitVec.msb_eq_false_iff_two_mul_lt.2 (BitVec.toInt_pos_iff.1 h)

/-- A non-negative value that fits signed fits unsigned. -/
theorem fitsU_of_fitsS_of_nonneg {val : Word} {w : Nat} (hpos : 0 ≤ S val) (hfits : fitsS (S val) w = true) :
    fitsU (U val) w = true := by
  have hs := msb_eq_false_of_toInt_nonneg hpos
  rcases Nat.eq_zero_or_pos w with rfl | hw
  · rw [fitsS_zero_iff, S, BitVec.toInt_eq_toNat_of_msb hs, Int.natCast_eq_zero] at hfits
    exact (fitsU_zero_iff _).2 hfits
  · have hclear := (fitsS_iff_high_bits_clear hs hw).1 hfits
    exact (fitsU_iff_high_bits_clear val w).2 fun i hi => hclear i (by omega)

/-- The pattern of a negative value that fits signed is the value plus `2^w`. -/
theorem and_mask_toNat_of_neg {val : Word} {w : Nat} (hw64 : w ≤ 64) (hneg : S val < 0)
    (hfits : fitsS (S val) w = true) : (U (val &&& mask w) : Int) = S val + (2 : Int) ^ w := by
  rcases Nat.eq_zero_or_pos w with rfl | hw
  · exact absurd ((fitsS_zero_iff _).1 hfits) hneg.ne
  · obtain ⟨hlow, -⟩ := (fitsS_toInt_iff_range val hw).1 hfits
    have hhalf : (2 : Int) ^ (w - 1) ≤ 2 ^ w := pow_le_pow_right₀ (by decide) (by omega)
    rw [and_mask_toNat_eq_toInt_emod val hw64, ← Int.add_emod_right]
    exact Int.emod_eq_of_lt (by omega) (by omega)

/-- A value from `2^(w-1)` up to `2^63 - 1` is past the signed range of width `w` (R135(c)). -/
theorem fitsS_eq_false_of_le {val : Word} {w : Nat} (hw : 1 ≤ w) (hlow : 2 ^ (w - 1) ≤ U val) (h63 : U val < 2 ^ 63) :
    fitsS (S val) w = false := by
  have hread : S val = U val := BitVec.toInt_eq_toNat_of_lt (Nat.mul_lt_mul_of_pos_left h63 two_pos)
  have hpos := Nat.two_pow_pos (w - 1)
  rw [Bool.eq_false_iff, hread, ne_eq, fitsS_natCast_iff h63 hw, fitsU_iff_le (U val) _ val.isLt]
  omega

/-- A word that reads negative fits unsigned in no width below 64 (R135(c)). -/
theorem fitsU_eq_false_of_neg {val : Word} {w : Nat} (hneg : S val < 0) (hw : w < 64) : fitsU (U val) w = false := by
  have hhigh : 2 ^ 64 ≤ 2 * U val := BitVec.toInt_neg_iff.1 hneg
  have hpow : 2 ^ w ≤ 2 ^ 63 := Nat.pow_le_pow_right (by decide) (by omega)
  rw [Bool.eq_false_iff, ne_eq, fitsU_iff_le (U val) _ val.isLt]
  omega

/-! ### Sign extension and masking undo each other (R134) -/

/-- A value that fits signed is the sign extension of its low bits. -/
theorem sext_and_mask_of_fitsS {val : Word} {w : Nat} (hfits : fitsS (S val) w = true) :
    sext w (val &&& mask w) = val := by
  rcases Nat.eq_zero_or_pos w with rfl | hw
  · rw [sext_width_zero]
    exact (BitVec.eq_of_toInt_eq ((fitsS_zero_iff _).1 hfits)).symm
  · have hcopies := (fitsS_iff_high_bits_all_equal val hw).1 hfits
    apply BitVec.eq_of_getLsbD_eq
    intro i hi
    rw [sext_getLsbD _ _ _ hw (and_mask_high_bits_clear val w)]
    rw [BitVec.getLsbD_and, BitVec.getLsbD_and, mask_getLsbD, mask_getLsbD]
    by_cases hiw : i < w
    · simp [hiw, hi]
    · rw [if_neg hiw, hcopies i (w - 1) (by omega) hi le_rfl (by omega)]
      simp [hi, show 0 < w from hw, show w - 1 < 64 by omega]

/-- The low bits of a sign extension are the pattern that was extended. -/
theorem sext_and_mask {f : Word} {w : Nat} (hf : ∀ i, w ≤ i → f.getLsbD i = false) : sext w f &&& mask w = f := by
  rcases Nat.eq_zero_or_pos w with rfl | hw
  · apply BitVec.eq_of_getLsbD_eq
    intro i _
    rw [sext_width_zero, BitVec.ofNat_eq_ofNat, BitVec.zero_and, hf i (Nat.zero_le i), BitVec.getLsbD_zero]
  · apply BitVec.eq_of_getLsbD_eq
    intro i hi
    rw [BitVec.getLsbD_and, mask_getLsbD, sext_getLsbD _ _ _ hw hf]
    by_cases hiw : i < w
    · simp [hiw, hi]
    · simp [hiw, hf i (by omega)]

/-- The value a get answers fits its width in the same signedness, and its low bits are the field (R123, R134). -/
theorem valueFits_got (signed : Bool) (word : Word) {w l : Nat} (hc : l + w ≤ 64) :
    valueFits signed (if signed then sext w (extract word w l) else extract word w l) w = true ∧
      (if signed then sext w (extract word w l) else extract word w l) &&& mask w = extract word w l := by
  have hclear := extract_high_bits_clear word w l
  cases signed with
  | true => exact ⟨fitsS_sext (by omega) hclear, sext_and_mask hclear⟩
  | false =>
    have hfits := (fitsU_iff_high_bits_clear _ w).2 hclear
    exact ⟨hfits, and_mask_of_fitsU hfits⟩

/-- A value that fits is what a get of its signedness makes of its low bits (R134). -/
theorem got_and_mask_of_valueFits (signed : Bool) {val : Word} {w : Nat} (hfit : valueFits signed val w = true) :
    (if signed then sext w (val &&& mask w) else val &&& mask w) = val := by
  cases signed with
  | true => exact sext_and_mask_of_fitsS hfit
  | false => exact and_mask_of_fitsU hfit

/-! ### The field replaced (R132, R133, R135) -/

/-- The bits of a word with a masked pattern inserted: the value's inside the field, the word's outside it. -/
theorem insert_and_mask_getLsbD (word val : Word) (w l i : Nat) (hi : i < 64) :
    (insert word w l (val &&& mask w)).getLsbD i =
      if l ≤ i ∧ i < l + w then val.getLsbD (i - l) else word.getLsbD i := by
  rw [insert_getLsbD_of_clear word (and_mask_high_bits_clear val w) i hi]
  split
  · next hin =>
    rw [BitVec.getLsbD_and, mask_getLsbD, decide_eq_true (by omega), decide_eq_true (by omega), Bool.and_self,
      Bool.and_true]
  · rfl

/-- The word a set inserts its value in is kept outside the field (R133). -/
theorem insert_and_mask_agreeOutside (word val : Word) (w l : Nat) :
    agreeOutside w l (insert word w l (val &&& mask w)) word :=
  insert_agreeOutside word l (and_mask_high_bits_clear val w)

/-- Words that agree outside a field differ in no bit outside its mask. -/
theorem agreeOutside.xor_and_not_fmask {w l : Nat} {x y : Word} (h : agreeOutside w l x y) :
    (x ^^^ y) &&& ~~~(fmask w l) = 0 := by
  apply BitVec.eq_of_getLsbD_eq
  intro i hi
  rw [BitVec.getLsbD_and, BitVec.getLsbD_xor, BitVec.getLsbD_not, fmask_getLsbD, BitVec.ofNat_eq_ofNat,
    BitVec.getLsbD_zero]
  by_cases hin : l ≤ i ∧ i < l + w
  · simp [hin, hi]
  · rw [h i (by omega), Bool.xor_self, Bool.false_and]

/-- Words that agree outside a field of width 0 are equal. -/
theorem agreeOutside.eq_of_width_zero {l : Nat} {x y : Word} (h : agreeOutside 0 l x y) : x = y :=
  BitVec.eq_of_getLsbD_eq fun i _ => h i (by omega)

/-- INSERT depends on the bits outside its field only: what the field held is cleared (R132). -/
theorem insert_eq_of_agreeOutside {w l : Nat} {x y : Word} (h : agreeOutside w l x y) (p : Word) :
    insert x w l p = insert y w l p := by
  apply BitVec.eq_of_getLsbD_eq
  intro i _
  rw [insert_getLsbD, insert_getLsbD]
  by_cases hin : l ≤ i ∧ i < l + w
  · simp [hin]
  · rw [h i (by omega)]

/-- Inserting what was extracted gives the word back. -/
theorem insert_extract (word : Word) (w l : Nat) : insert word w l (extract word w l) = word := by
  apply BitVec.eq_of_getLsbD_eq
  intro i hi
  rw [insert_getLsbD_of_clear word (extract_high_bits_clear word w l) i hi]
  split
  · next hin =>
    rw [extract_getLsbD, decide_eq_true (by omega), Bool.true_and, Nat.add_sub_cancel' hin.1]
  · rfl

/-- Insertions in disjoint fields commute. -/
theorem insert_insert_comm (word : Word) {p q : Word} {w l w' l' : Nat} (hp : ∀ i, w ≤ i → p.getLsbD i = false)
    (hq : ∀ i, w' ≤ i → q.getLsbD i = false) (hd : l + w ≤ l' ∨ l' + w' ≤ l) :
    insert (insert word w l p) w' l' q = insert (insert word w' l' q) w l p := by
  apply BitVec.eq_of_getLsbD_eq
  intro i hi
  simp only [insert_getLsbD_of_clear _ hp i hi, insert_getLsbD_of_clear _ hq i hi]
  by_cases hin : l ≤ i ∧ i < l + w
  · have hout : ¬(l' ≤ i ∧ i < l' + w') := by omega
    rw [if_neg hout, if_pos hin, if_pos hin]
  · rw [if_neg hin, if_neg hin]

/-! ### The answers of SET.S and SET.U -/

/-- All that a set of either signedness can answer (R130, R131, R146). -/
theorem answer_setAs_cases (signed : Bool) (word width lsb val : Word) :
    answer (setAs signed word width lsb val) =
      if U lsb + U width ≤ 64 then
        if valueFits signed val (U width) = true then .ok (insert word (U width) (U lsb) (val &&& mask (U width)))
        else .error .doesNotFit
      else .error .badField := by
  cases signed with
  | true => exact answerSetS_cases word width lsb val
  | false =>
    refine (answerSetU_cases word width lsb val).trans ?_
    by_cases hfit : fitsU (U val) (U width) = true
    · rw [and_mask_of_fitsU hfit]
      rfl
    · rw [if_neg hfit, if_neg (show ¬valueFits false val (U width) = true from hfit)]

/-- An instruction completes with its answer, and all else is as it was (R147). -/
theorem exec_next_answered (i : Instr) (s : State) : exec i s = .next (s.answered (answer i)) :=
  exec_next_deliver i s

/-- A set whose field is not contained completes with BAD_FIELD (R130, R131). -/
theorem exec_setAs_of_not_contained (signed : Bool) (word : Word) {width lsb : Word} (val : Word) (s : State)
    (hc : ¬U lsb + U width ≤ 64) :
    exec (setAs signed word width lsb val) s = .next (s.answered (.error .badField)) := by
  rw [exec_next_answered, answer_setAs_cases, if_neg hc]

/-- A set whose field is contained and whose value does not fit completes with DOES_NOT_FIT (R130, R131). -/
theorem exec_setAs_of_not_fits (signed : Bool) (word : Word) {width lsb val : Word} (s : State)
    (hc : U lsb + U width ≤ 64) (hfit : ¬valueFits signed val (U width) = true) :
    exec (setAs signed word width lsb val) s = .next (s.answered (.error .doesNotFit)) := by
  rw [exec_next_answered, answer_setAs_cases, if_pos hc, if_neg hfit]

/-- A set runs alike on words that agree outside its field, successful or not (R132, R135(e)). -/
theorem exec_setAs_eq_of_agreeOutside (signed : Bool) {x y width lsb : Word} (val : Word) (s : State)
    (h : agreeOutside (U width) (U lsb) x y) :
    exec (setAs signed x width lsb val) s = exec (setAs signed y width lsb val) s := by
  rw [exec_next_answered, exec_next_answered, answer_setAs_cases, answer_setAs_cases, insert_eq_of_agreeOutside h]

/-- Settles O25: the field check comes first, then the range check; what is inserted is the value itself. -/
theorem setUnsignedReplacesTheField : Obligations.SetUnsignedReplacesTheField := by
  unfold Obligations.SetUnsignedReplacesTheField
  intro word width lsb val s
  refine ⟨rfl, fun hc => ?_, fun hc hfit => ?_, fun hc hfit => ?_⟩
  · exact exec_setAs_of_not_contained false word val s (Nat.not_le.2 hc)
  · exact exec_setAs_of_not_fits false word s hc (Bool.eq_false_iff.1 hfit)
  · refine ⟨_, exec_setAs_of_fits false word s hc hfit, ?_, insert_and_mask_getLsbD word val _ _⟩
    rw [and_mask_of_fitsU hfit]

/-- Settles O26: the checks in the same order; what is inserted is the value modulo `2^w`, read off its low bits. -/
theorem setSignedReplacesTheField : Obligations.SetSignedReplacesTheField := by
  unfold Obligations.SetSignedReplacesTheField
  intro word width lsb val s
  refine ⟨rfl, fun hc => ?_, fun hc hfit => ?_, fun hc hfit => ?_⟩
  · exact exec_setAs_of_not_contained true word val s (Nat.not_le.2 hc)
  · exact exec_setAs_of_not_fits true word s hc (Bool.eq_false_iff.1 hfit)
  · have hw64 : U width ≤ 64 := by omega
    exact ⟨_, _, exec_setAs_of_fits true word s hc hfit, rfl, rfl, and_mask_toNat_eq_toInt_emod val hw64,
      fun hpos => and_mask_of_fitsU (fitsU_of_fitsS_of_nonneg hpos hfit),
      fun hneg => and_mask_toNat_of_neg hw64 hneg hfit, insert_and_mask_getLsbD word val _ _⟩

/-- Settles O27: the answer of a successful set agrees with the word outside the field; an unsuccessful set fails one
of the two checks. -/
theorem setChangesItsFieldOnly : Obligations.SetChangesItsFieldOnly := by
  unfold Obligations.SetChangesItsFieldOnly
  intro signed word width lsb val s
  constructor
  · intro hc hfit
    have houtside := insert_and_mask_agreeOutside word val (U width) (U lsb)
    refine ⟨_, exec_setAs_of_fits signed word s hc hfit, houtside.xor_and_not_fmask, houtside, fun hzero => ?_⟩
    rw [hzero] at houtside ⊢
    exact houtside.eq_of_width_zero
  · intro hfails
    by_cases hc : U lsb + U width ≤ 64
    · exact ⟨_, exec_setAs_of_not_fits signed word s hc fun hfit => hfails ⟨hc, hfit⟩⟩
    · exact ⟨_, exec_setAs_of_not_contained signed word val s hc⟩

/-- Settles O29: extraction undoes insertion and masking, and insertion undoes extraction. -/
theorem setThenGetRoundTrips : Obligations.SetThenGetRoundTrips := by
  unfold Obligations.SetThenGetRoundTrips
  constructor
  · intro signed word width lsb val any s t hc hfit
    refine ⟨_, exec_setAs_of_fits signed word s hc hfit, ?_⟩
    rw [exec_getAs_of_contained signed _ any t hc, extract_insert word hc (and_mask_high_bits_clear val _),
      got_and_mask_of_valueFits signed hfit]
  · intro signed word width lsb any s t hc
    obtain ⟨hfit, hpattern⟩ := valueFits_got signed word hc
    refine ⟨_, exec_getAs_of_contained signed word any s hc, ?_⟩
    rw [exec_setAs_of_fits signed word t hc hfit, hpattern, insert_extract]

/-! ### The two sets compared (R135) -/

/-- A value that fits both ways is set alike by both sets, contained or not (R135(a)). -/
theorem exec_setS_eq_setU_of_fits_both (word width lsb : Word) {val : Word} (s : State)
    (hs : fitsS (S val) (U width) = true) (hu : fitsU (U val) (U width) = true) :
    exec (.setS word width lsb val) s = exec (.setU word width lsb val) s := by
  by_cases hc : U lsb + U width ≤ 64
  · exact (exec_setAs_of_fits true word s hc hs).trans (exec_setAs_of_fits false word s hc hu).symm
  · exact (exec_setAs_of_not_contained true word val s hc).trans
      (exec_setAs_of_not_contained false word val s hc).symm

/-- SET.S is SET.U of the value modulo `2^w` (R135(b)). -/
theorem exec_setS_eq_setU_emod (word : Word) {width lsb val : Word} (s : State) (hc : U lsb + U width ≤ 64)
    (hs : fitsS (S val) (U width) = true) :
    exec (.setS word width lsb val) s = exec (.setU word width lsb (bits64 (S val % (2 : Int) ^ U width))) s := by
  have hu := fitsU_and_mask val (U width)
  have hsigned := exec_setAs_of_fits true word s hc hs
  have hunsigned := exec_setAs_of_fits false word s hc hu
  rw [and_mask_of_fitsU hu] at hunsigned
  rw [bits64_toInt_emod val (by omega)]
  exact hsigned.trans hunsigned.symm

/-- Settles O31: (a) and (b) by the pattern inserted, (c) by the two ranges, (d) and (e) by the bits of INSERT. -/
theorem relationsBetweenTheTwoSets : Obligations.RelationsBetweenTheTwoSets := by
  unfold Obligations.RelationsBetweenTheTwoSets
  refine ⟨?_, fun word width lsb val s => exec_setS_eq_setU_emod word s, ?_, ?_, ?_⟩
  · intro word width lsb val s hw hpos hhigh
    have hlow : -(2 : Int) ^ (U width - 1) ≤ S val := (neg_nonpos.2 (pow_nonneg (by decide) _)).trans hpos
    have hs := (fitsS_toInt_iff_range val hw).2 ⟨hlow, hhigh⟩
    exact exec_setS_eq_setU_of_fits_both word width lsb s hs (fitsU_of_fitsS_of_nonneg hpos hs)
  · refine fun val w => ⟨fun hw hw63 hlow hhigh => ?_, fitsU_eq_false_of_neg⟩
    have hpow : 2 ^ w ≤ 2 ^ 63 := Nat.pow_le_pow_right (by decide) hw63
    have hpos := Nat.two_pow_pos w
    exact ⟨(fitsU_iff_le _ w val.isLt).2 hhigh, fitsS_eq_false_of_le hw hlow (by omega)⟩
  · intro signed signed' word width lsb val width' lsb' val' s hc hc' hd hfit hfit'
    refine ⟨_, _, _, exec_setAs_of_fits signed word s hc hfit, exec_setAs_of_fits signed' _ s hc' hfit',
      exec_setAs_of_fits signed' word s hc' hfit', ?_⟩
    rw [exec_setAs_of_fits signed _ s hc hfit,
      insert_insert_comm word (and_mask_high_bits_clear val _) (and_mask_high_bits_clear val' _) hd]
  · intro signed signed' word width lsb a b s hc hfit
    exact ⟨_, exec_setAs_of_fits signed word s hc hfit,
      exec_setAs_eq_of_agreeOutside signed' b s (insert_and_mask_agreeOutside word a _ _)⟩

end Sys2Proof.Machine
end

section
/-! The error conditions (R141 to R143, R146, R150): the exact cause of each, and their priority. -/

namespace Sys2Proof.Machine

/-! ### Instructions by family -/

/-- To say something of every instruction, say it of the three families of either signedness and of the two reserved
codes (R61). -/
theorem instr_family_cases {motive : Instr → Prop}
    (fits : ∀ signed word width lsb val, motive (fitsAs signed word width lsb val))
    (get : ∀ signed word width lsb val, motive (getAs signed word width lsb val))
    (set : ∀ signed word width lsb val, motive (setAs signed word width lsb val))
    (reserved6 : ∀ word width lsb val, motive (.reserved6 word width lsb val))
    (reserved7 : ∀ word width lsb val, motive (.reserved7 word width lsb val)) (i : Instr) : motive i := by
  cases i with
  | fitsS => exact fits true ..
  | fitsU => exact fits false ..
  | getS => exact get true ..
  | getU => exact get false ..
  | setS => exact set true ..
  | setU => exact set false ..
  | reserved6 => exact reserved6 ..
  | reserved7 => exact reserved7 ..

section
variable (signed : Bool) (word width lsb val : Word)

@[simp] theorem wf_fitsAs : (fitsAs signed word width lsb val).wf = true := by cases signed <;> rfl
@[simp] theorem wf_getAs : (getAs signed word width lsb val).wf = true := by cases signed <;> rfl
@[simp] theorem wf_setAs : (setAs signed word width lsb val).wf = true := by cases signed <;> rfl

@[simp] theorem contained_fitsAs : (fitsAs signed word width lsb val).contained = true := by cases signed <;> rfl
@[simp] theorem contained_getAs :
    (getAs signed word width lsb val).contained = decide (U lsb + U width ≤ 64) := by cases signed <;> rfl
@[simp] theorem contained_setAs :
    (setAs signed word width lsb val).contained = decide (U lsb + U width ≤ 64) := by cases signed <;> rfl

end

/-- The instructions software may not issue are those with code 6 or 7 (R67, R68). -/
theorem wf_eq_false_iff_opcode (i : Instr) : i.wf = false ↔ i.opcode = 6 ∨ i.opcode = 7 := by
  cases i <;> simp [Instr.wf, Instr.opcode]

/-- The even code of a class is the signed one, the odd code the unsigned one (R61). -/
theorem opClass_signedness {op : BitVec 3} {c : BitVec 2} (h : opClass op = c) :
    op = c ++ 0#1 ∧ opUnsigned op = false ∨ op = c ++ 1#1 ∧ opUnsigned op = true := by
  revert op c
  decide

/-- A request of class 00 is the FITS of its signedness (R61). -/
theorem decodeRequest_of_opClass_fits {r : Request} (h : opClass r.op = 0b00) :
    decodeRequest r = fitsAs (!opUnsigned r.op) r.word r.width r.lsb r.val := by
  obtain ⟨op, word, width, lsb, val⟩ := r
  rcases opClass_signedness h with ⟨rfl, hsign⟩ | ⟨rfl, hsign⟩
  · rw [hsign]
    rfl
  · rw [hsign]
    rfl

/-- A request of class 01 is the GET of its signedness (R61). -/
theorem decodeRequest_of_opClass_get {r : Request} (h : opClass r.op = 0b01) :
    decodeRequest r = getAs (!opUnsigned r.op) r.word r.width r.lsb r.val := by
  obtain ⟨op, word, width, lsb, val⟩ := r
  rcases opClass_signedness h with ⟨rfl, hsign⟩ | ⟨rfl, hsign⟩
  · rw [hsign]
    rfl
  · rw [hsign]
    rfl

/-- A request of class 10 is the SET of its signedness (R61). -/
theorem decodeRequest_of_opClass_set {r : Request} (h : opClass r.op = 0b10) :
    decodeRequest r = setAs (!opUnsigned r.op) r.word r.width r.lsb r.val := by
  obtain ⟨op, word, width, lsb, val⟩ := r
  rcases opClass_signedness h with ⟨rfl, hsign⟩ | ⟨rfl, hsign⟩
  · rw [hsign]
    rfl
  · rw [hsign]
    rfl

/-- A request decodes to an illegal instruction where its code is 6 or 7, which is class 11 (R67, R68). -/
theorem wf_decodeRequest_eq_false_iff (r : Request) : (decodeRequest r).wf = false ↔ r.op = 6 ∨ r.op = 7 := by
  rw [wf_eq_false_iff_opcode, decodeRequest_opcode]

/-! ### The cause of each condition -/

/-- An instruction completes with a response exactly where that is its answer: the response ports show which one it
was (R147). -/
theorem exec_eq_answered_iff (i : Instr) (s : State) (x : Response) :
    exec i s = .next (s.answered x) ↔ answer i = x := by
  rw [exec_next_answered]
  constructor
  · intro h
    injection h with hstate
    exact Option.some.inj (congrArg State.rsp hstate)
  · rintro rfl
    rfl

/-- A FITS of either signedness answers its predicate as 1 or 0 (R111, R113). -/
theorem answer_fitsAs (signed : Bool) (word width lsb val : Word) :
    answer (fitsAs signed word width lsb val) = .ok (if valueFits signed val (U width) then 1 else 0) :=
  (exec_eq_answered_iff _ State.reset _).1 (exec_fitsAs signed word width lsb val State.reset)

/-- A FITS answers 0 exactly where the value does not fit (R141). -/
theorem answer_fitsAs_eq_zero_iff (signed : Bool) (word width lsb val : Word) :
    answer (fitsAs signed word width lsb val) = .ok 0 ↔ valueFits signed val (U width) = false := by
  rw [answer_fitsAs]
  cases valueFits signed val (U width) with
  | true => simp
  | false => simp

/-- A SET answers DOES_NOT_FIT exactly where its field is contained and the value does not fit (R141). -/
theorem answer_setAs_eq_doesNotFit_iff (signed : Bool) (word width lsb val : Word) :
    answer (setAs signed word width lsb val) = .error .doesNotFit ↔
      U lsb + U width ≤ 64 ∧ valueFits signed val (U width) = false := by
  rw [answer_setAs_cases]
  by_cases hc : U lsb + U width ≤ 64
  · cases valueFits signed val (U width) with
    | true => simp [hc]
    | false => simp [hc]
  · simp [hc]

/-- BAD_FIELD is answered exactly by an instruction with a descriptor that is not contained (R142). -/
theorem answer_eq_badField_iff (i : Instr) : answer i = .error .badField ↔ i.contained = false := by
  cases i using instr_family_cases with
  | fits => simp [answer_fitsAs]
  | get =>
    rw [answer_getAs_cases, contained_getAs]
    split <;> simp [*]
  | set =>
    rw [answer_setAs_cases, contained_setAs]
    split
    · split <;> simp [*]
    · simp [*]
  | reserved6 => exact iff_of_false nofun nofun
  | reserved7 => exact iff_of_false nofun nofun

/-- BAD_OP is answered exactly by an illegal instruction: a FITS is OK, and a GET or SET has no such branch (R143). -/
theorem answer_eq_badOp_iff (i : Instr) : answer i = .error .badOp ↔ i.wf = false := by
  cases i using instr_family_cases with
  | fits => simp [answer_fitsAs]
  | get =>
    rw [answer_getAs_cases, wf_getAs]
    split <;> simp
  | set =>
    rw [answer_setAs_cases, wf_setAs]
    split
    · split <;> simp
    · simp
  | reserved6 => exact iff_of_true rfl rfl
  | reserved7 => exact iff_of_true rfl rfl

/-- Settles O33: both sides come down to the containment and the predicate that SET and FITS share. -/
theorem doesNotFitExactlyWhenFitsAnswersZero : Obligations.DoesNotFitExactlyWhenFitsAnswersZero := by
  unfold Obligations.DoesNotFitExactlyWhenFitsAnswersZero
  intro signed word width lsb val any any' s t
  rw [exec_eq_answered_iff, exec_eq_answered_iff, answer_setAs_eq_doesNotFit_iff, answer_fitsAs_eq_zero_iff, and_self]

/-- Settles O34: the cause of BAD_FIELD over all instructions; a width or an lsb above 64 makes the sum exceed 64. -/
theorem badFieldExactlyWhenNotContained : Obligations.BadFieldExactlyWhenNotContained := by
  unfold Obligations.BadFieldExactlyWhenNotContained
  refine ⟨fun i s => ?_, fun signed word width lsb val => ?_, fun signed word width lsb val s hbig => ?_⟩
  · rw [exec_eq_answered_iff, answer_eq_badField_iff]
  · rw [contained_getAs, contained_setAs, decide_eq_false_iff_not, Nat.not_le]
    exact ⟨Iff.rfl, Iff.rfl, contained_fitsAs ..⟩
  · have hnot : 64 < U lsb + U width := by omega
    exact ⟨exec_getAs_of_not_contained signed word val s hnot,
      exec_setAs_of_not_contained signed word val s (Nat.not_le.2 hnot)⟩

/-- Settles O35: BAD_OP is the answer to the illegal instructions, which the codes 6 and 7 decode to. -/
theorem badOpExactlyForReservedCodes : Obligations.BadOpExactlyForReservedCodes := by
  unfold Obligations.BadOpExactlyForReservedCodes
  intro r s
  have hwf := wf_decodeRequest_eq_false_iff r
  exact ⟨(exec_eq_answered_iff _ s _).trans ((answer_eq_badOp_iff _).trans hwf), hwf⟩

/-! ### Priority, and the table of statuses -/

/-- Where none of the three causes applies a request is answered OK (R146, R150). -/
theorem answer_decodeRequest_ok {r : Request} (hop : opClass r.op ≠ 0b11)
    (hc : opClass r.op = 0b01 ∨ opClass r.op = 0b10 → U r.lsb + U r.width ≤ 64)
    (hfit : opClass r.op = 0b10 → valueFits (!opUnsigned r.op) r.val (U r.width) = true) :
    ∃ v : Word, answer (decodeRequest r) = .ok v := by
  have hclasses : ∀ c : BitVec 2, c = 0b00 ∨ c = 0b01 ∨ c = 0b10 ∨ c = 0b11 := by decide
  rcases hclasses (opClass r.op) with hfits | hget | hset | hreserved
  · exact ⟨_, by rw [decodeRequest_of_opClass_fits hfits, answer_fitsAs]⟩
  · exact ⟨_, by rw [decodeRequest_of_opClass_get hget, answer_getAs_cases, if_pos (hc (.inl hget))]⟩
  · exact ⟨_, by rw [decodeRequest_of_opClass_set hset, answer_setAs_of_fits _ _ (hc (.inr hset)) (hfit hset)]⟩
  · exact absurd hreserved hop

/-- Settles O36: the one response is the answer, whose causes exclude each other in the order of the rule. -/
theorem conditionsAreReportedInPriority : Obligations.ConditionsAreReportedInPriority := by
  unfold Obligations.ConditionsAreReportedInPriority
  refine ⟨fun r => ⟨answer (decodeRequest r), exec_next_answered _, fun hop => ?_, fun hop hnot => ?_,
    fun hset hc hfit => ?_, answer_decodeRequest_ok⟩, fun s => ?_⟩
  · rw [answer_eq_badOp_iff, wf_decodeRequest_eq_false_iff]
    exact (opClass_eq_iff r.op 0b11).1 hop
  · rw [answer_eq_badField_iff]
    rcases hop with hget | hset
    · rw [decodeRequest_of_opClass_get hget, contained_getAs, decide_eq_false (Nat.not_le.2 hnot)]
    · rw [decodeRequest_of_opClass_set hset, contained_setAs, decide_eq_false (Nat.not_le.2 hnot)]
  · rw [decodeRequest_of_opClass_set hset, answer_setAs_eq_doesNotFit_iff]
    exact ⟨hc, hfit⟩
  · exact exec_setAs_of_not_contained false 0 4 s (by decide)

/-- The statuses of a GET (R150). -/
theorem statusCode_answer_getAs (signed : Bool) (word width lsb val : Word) :
    statusCode (answer (getAs signed word width lsb val)) = if U lsb + U width ≤ 64 then 0 else 2 := by
  rw [answer_getAs_cases, apply_ite statusCode]
  rfl

/-- The statuses of a SET (R150). -/
theorem statusCode_answer_setAs (signed : Bool) (word width lsb val : Word) :
    statusCode (answer (setAs signed word width lsb val)) =
      if U lsb + U width ≤ 64 then if valueFits signed val (U width) = true then 0 else 1 else 2 := by
  rw [answer_setAs_cases, apply_ite statusCode, apply_ite statusCode]
  rfl

/-- Settles O37: each operation completes with its answer, whose status is read off its cases. -/
theorem statusMatrixIsExhaustive : Obligations.StatusMatrixIsExhaustive := by
  unfold Obligations.StatusMatrixIsExhaustive
  intro signed word width lsb val s
  refine ⟨⟨_, exec_fitsAs signed word width lsb val s, rfl⟩, ⟨_, exec_next_answered _ s, ?_⟩,
    ⟨_, exec_next_answered _ s, ?_⟩, ⟨_, exec_next_answered _ s, rfl⟩, ⟨_, exec_next_answered _ s, rfl⟩⟩
  · rw [statusCode_answer_getAs, ← Nat.not_le]
    by_cases hc : U lsb + U width ≤ 64
    · simp [hc]
    · simp [hc]
  · rw [statusCode_answer_setAs, ← Nat.not_le]
    by_cases hc : U lsb + U width ≤ 64
    · cases valueFits signed val (U width) with
      | true => simp [hc]
      | false => simp [hc]
    · simp [hc]

end Sys2Proof.Machine
end

section
/-! The two round trips of the encoding (R60, R61, R68, R71). -/

namespace Sys2Proof

/-- The five slices of R60's table are adjacent and are all 259 bits. -/
@[simp] theorem pack_unpackRequest (b : BitVec 259) : (unpackRequest b).pack = b := by
  simp only [Request.pack, unpackRequest]
  rw [BitVec.extractLsb'_append_extractLsb'_eq_extractLsb' (show 256 = 192 + 64 from rfl),
    BitVec.extractLsb'_append_extractLsb'_eq_extractLsb' (show 192 = 128 + 64 from rfl),
    BitVec.extractLsb'_append_extractLsb'_eq_extractLsb' (show 128 = 64 + 64 from rfl),
    BitVec.extractLsb'_append_extractLsb'_eq_extractLsb' (show 64 = 0 + 64 from rfl)]
  exact BitVec.extractLsb'_eq_self

/-- The request of an instruction decodes to it: each row is reached by its own code (R61). -/
@[simp] theorem decodeRequest_encodeRequest (i : Instr) : decodeRequest (encodeRequest i) = i := by
  cases i <;> rfl

/-- A request is the one its instruction encodes to: the row keeps the code and all four operands (R60, R61). -/
@[simp] theorem encodeRequest_decodeRequest (r : Request) : encodeRequest (decodeRequest r) = r := by
  obtain ⟨op, word, width, lsb, val⟩ := r
  rcases opcode_families op with hfits | hget | hset | hreserved
  · rcases hfits with rfl | rfl <;> rfl
  · rcases hget with rfl | rfl <;> rfl
  · rcases hset with rfl | rfl <;> rfl
  · rcases hreserved with rfl | rfl <;> rfl

/-- Settles O1: unpacking undoes packing, and each row decodes back from its code and operands. -/
theorem decodeOfEncodeIsTheInstruction : Obligations.DecodeOfEncodeIsTheInstruction := by
  unfold Obligations.DecodeOfEncodeIsTheInstruction
  intro i
  rw [decode, encode, unpackRequest_pack, decodeRequest_encodeRequest]

/-- Settles O2: the decoded row keeps the request, and packing undoes unpacking. -/
theorem encodeOfDecodeIsTheRequest : Obligations.EncodeOfDecodeIsTheRequest := by
  unfold Obligations.EncodeOfDecodeIsTheRequest
  intro b
  rw [decode, encode, encodeRequest_decodeRequest, pack_unpackRequest]

/-- Settles O5: seven fixed words, each one digit of code and sixteen of each operand, run through the decoder. -/
theorem specWordsDecodeToTheirInstructions : Obligations.SpecWordsDecodeToTheirInstructions := by
  unfold Obligations.SpecWordsDecodeToTheirInstructions
  decide

end Sys2Proof
end

section
/-! What remains of the fits and the set families: the laws of the predicates (R117) and the overwriting (R132). -/

namespace Sys2Proof.Machine

/-! ### The laws of the fits predicates -/

/-- What fits signed in a width from 1 on fits in the next (R117(a)). -/
theorem fitsS_succ {n : Int} {w : Nat} (hlow : -(2 : Int) ^ 63 ≤ n) (hhigh : n ≤ 2 ^ 63 - 1) (hfits : fitsS n w = true) :
    fitsS n (w + 1) = true := by
  rw [fitsS_iff_range n (w + 1) hlow hhigh (by omega), Nat.add_sub_cancel]
  rcases Nat.eq_zero_or_pos w with rfl | hw
  · rw [(fitsS_zero_iff n).1 hfits]
    decide
  · obtain ⟨hmin, hmax⟩ := (fitsS_iff_range n w hlow hhigh hw).1 hfits
    have hpow : (2 : Int) ^ (w - 1) ≤ 2 ^ w := pow_le_pow_right₀ (by decide) (by omega)
    omega

/-- What fits unsigned in a width fits in the next (R117(a)). -/
theorem fitsU_succ {n w : Nat} (hn : n < 2 ^ 64) (hfits : fitsU n w = true) : fitsU n (w + 1) = true := by
  have hpow : 2 ^ w ≤ 2 ^ (w + 1) := Nat.pow_le_pow_right (by decide) (by omega)
  rw [fitsU_iff_le n _ hn] at hfits ⊢
  omega

/-- The values of a signed port that fit a width from 1 to 64 are those of the two's-complement range. -/
theorem filter_fitsS {w : Nat} (hw : 1 ≤ w) (hw64 : w ≤ 64) :
    (Finset.Ico (-(2 : Int) ^ 63) (2 ^ 63)).filter (fun n => fitsS n w = true) =
      Finset.Ico (-(2 : Int) ^ (w - 1)) (2 ^ (w - 1)) := by
  have hpow : (2 : Int) ^ (w - 1) ≤ 2 ^ 63 := pow_le_pow_right₀ (by decide) (by omega)
  ext n
  rw [Finset.mem_filter, Finset.mem_Ico, Finset.mem_Ico]
  constructor
  · rintro ⟨⟨hlow, hhigh⟩, hfits⟩
    rw [fitsS_iff_range n w hlow (by omega) hw] at hfits
    omega
  · rintro ⟨hlow, hhigh⟩
    refine ⟨by omega, ?_⟩
    rw [fitsS_iff_range n w (by omega) (by omega) hw]
    omega

/-- The number of values that fit a width of at most 64 signed (R117(d)). -/
theorem card_filter_fitsS {w : Nat} (hw64 : w ≤ 64) :
    ((Finset.Ico (-(2 : Int) ^ 63) (2 ^ 63)).filter fun n => fitsS n w = true).card = 2 ^ w := by
  rcases Nat.eq_zero_or_pos w with rfl | hw
  · have hzero : (0 : Int) ∈ Finset.Ico (-(2 : Int) ^ 63) (2 ^ 63) := Finset.mem_Ico.2 (by decide)
    simp only [fitsS_zero_iff]
    rw [Finset.filter_eq', if_pos hzero, Finset.card_singleton, Nat.pow_zero]
  · obtain ⟨k, rfl⟩ : ∃ k, w = k + 1 := ⟨w - 1, by omega⟩
    have hlength : (2 : Int) ^ k - -2 ^ k = (2 ^ (k + 1) : Nat) := by
      push_cast
      ring
    rw [filter_fitsS hw hw64, Int.card_Ico, Nat.add_sub_cancel, hlength, Int.toNat_natCast]

/-- The number of values that fit a width of at most 64 unsigned (R117(d)). -/
theorem card_filter_fitsU {w : Nat} (hw64 : w ≤ 64) :
    ((Finset.range (2 ^ 64)).filter fun n => fitsU n w = true).card = 2 ^ w := by
  have hpow : 2 ^ w ≤ 2 ^ 64 := Nat.pow_le_pow_right (by decide) hw64
  have hpos := Nat.two_pow_pos w
  have hfilter : (Finset.range (2 ^ 64)).filter (fun n => fitsU n w = true) = Finset.range (2 ^ w) := by
    ext n
    rw [Finset.mem_filter, Finset.mem_range, Finset.mem_range]
    constructor
    · rintro ⟨hn, hfits⟩
      rw [fitsU_iff_le n w hn] at hfits
      omega
    · intro hn
      exact ⟨by omega, (fitsU_iff_le n w (by omega)).2 (by omega)⟩
  rw [hfilter, Finset.card_range]

/-- Settles O19: the laws are those of the ranges, which grow with the width, are symmetric under bitwise NOT, and
have `2^w` members. -/
theorem fitsLaws : Obligations.FitsLaws := by
  unfold Obligations.FitsLaws
  refine ⟨fun n w => fitsS_succ, fun n w => fitsU_succ, fun n w hn hw => fitsS_natCast_iff (by omega) hw,
    fun n w _ _ hw => (fitsS_neg_sub_one n hw).symm, fun w hw64 => ⟨card_filter_fitsS hw64, card_filter_fitsU hw64⟩⟩

/-! ### A set overwrites -/

/-- INSERT in a field whose old bits are 0 is an OR (R132). -/
theorem insert_of_extract_eq_zero {word : Word} {w l : Nat} (h : extract word w l = 0) (p : Word) :
    insert word w l p = word ||| shl p l := by
  have hclear : word &&& ~~~(fmask w l) = word := by
    apply BitVec.eq_of_getLsbD_eq
    intro i hi
    rw [BitVec.getLsbD_and, BitVec.getLsbD_not, fmask_getLsbD]
    by_cases hin : l ≤ i ∧ i < l + w
    · have hbit : word.getLsbD i = false := by
        have hfield := extract_getLsbD word w l (i - l)
        rw [h, decide_eq_true (by omega), Bool.true_and, Nat.add_sub_cancel' hin.1] at hfield
        exact hfield.symm.trans BitVec.getLsbD_zero
      rw [hbit, Bool.false_and]
    · rw [← Bool.decide_and, decide_eq_false hin]
      simp [hi]
  rw [insert, hclear]

/-- Settles O28: the field read back is the masked value, and clearing a field of zeros changes nothing. -/
theorem setOverwritesWhateverTheFieldHeld : Obligations.SetOverwritesWhateverTheFieldHeld := by
  unfold Obligations.SetOverwritesWhateverTheFieldHeld
  intro signed word width lsb val s hc hfit
  exact ⟨_, exec_setAs_of_fits signed word s hc hfit, extract_insert word hc (and_mask_high_bits_clear val _),
    fun hzero => insert_of_extract_eq_zero hzero _⟩

end Sys2Proof.Machine
end

section
/-! The machine: what each move leads to, the invariant, and what a run owes and delivers (R33, R147, R170, R179). -/

namespace Sys2Proof.Machine

/-! ### One step -/

/-- A step where a move is scheduled. -/
theorem step_of_schedule_cons {s : State} {m : Move} {rest : List Move} (h : s.schedule = m :: rest) :
    step s = .next (moveResult m { s with schedule := rest }) := by
  rw [step_next_moveResult, nextMove_cons h]

/-- Where *respond* is next, scheduled or not, a step is the unit's own move. -/
theorem step_of_respondsNext {s : State} {rest : List Move} (h : respondsNext s rest) :
    step s = .next (respondResult { s with schedule := rest }) := by
  rcases h with ⟨hnil, rfl⟩ | hcons
  · rw [step_next_moveResult, nextMove_nil hnil, ← hnil]
    rfl
  · exact step_of_schedule_cons hcons

/-- The unit's own move answers the oldest request in flight. -/
theorem respondResult_of_cons {s : State} {r : Request} {q : List Request} (hr : s.rst = false)
    (hq : s.queue = r :: q) : respondResult s = { s with queue := q }.answered (answerRequest r) := by
  rw [respondResult, fetch_cons hr hq]
  rfl

/-- Where *respond* is not enabled the unit's own move emits nothing. -/
theorem respondResult_of_not_enabled {s : State} (h : s.rst = true ∨ s.queue = []) : respondResult s = idle s := by
  rcases h with hr | hq
  · rw [respondResult, fetch_asserted hr]
  · rw [respondResult, fetch_empty hq]

/-- A step that answers the oldest request in flight. -/
theorem step_answers {s : State} {r : Request} {q : List Request} {rest : List Move} (hr : s.rst = false)
    (hq : s.queue = r :: q) (hnext : respondsNext s rest) :
    step s = .next ({ s with queue := q, schedule := rest }.answered (answerRequest r)) := by
  rw [step_of_respondsNext hnext]
  exact congrArg _ (respondResult_of_cons hr hq)

/-- A step that accepts a request, outside reset. -/
theorem step_accepts {s : State} {r : Request} {rest : List Move} (hr : s.rst = false)
    (hs : s.schedule = .accept r :: rest) :
    step s = .next { s with queue := s.queue ++ [r], rsp := none, schedule := rest } := by
  rw [step_of_schedule_cons hs, moveResult, accept, if_neg (by simp [hr])]

/-- Settles O39: every meaning is the delivery of its answer. -/
theorem everyInstructionAnswersOnce : Obligations.EveryInstructionAnswersOnce := by
  unfold Obligations.EveryInstructionAnswersOnce
  exact exec_next_answered

/-- Settles O40: the step delivers the answer to the oldest request, which is what its meaning does. -/
theorem stepRunsTheDecodedRequest : Obligations.StepRunsTheDecodedRequest := by
  unfold Obligations.StepRunsTheDecodedRequest
  intro r q s rest hr hq hnext
  rw [step_answers hr hq hnext, exec_next_answered]
  rfl

/-- Settles O41: the placed request is the oldest in flight, and answering it takes it off again. -/
theorem stepRunsThePlacedWord : Obligations.StepRunsThePlacedWord := by
  unfold Obligations.StepRunsThePlacedWord
  intro s w i hdecode
  obtain ⟨r, hr, rfl⟩ := Option.map_eq_some_iff.1 hdecode
  have hplaced : s.withFetchWord 264 w = placeRequest r s := by
    rw [State.withFetchWord, hr]
  rw [hplaced, step_answers (q := s.queue) (rest := s.schedule) rfl rfl (.inr rfl), exec_next_answered]
  rfl

/-- Settles O42: outside reset the request joins Q; under reset the move is idle. -/
theorem acceptAppendsToTheQueue : Obligations.AcceptAppendsToTheQueue := by
  unfold Obligations.AcceptAppendsToTheQueue
  intro r s rest hs
  refine ⟨fun hr => step_accepts hr hs, fun hr => ?_⟩
  rw [step_of_schedule_cons hs, moveResult, accept, if_pos hr, idle, if_pos hr]

/-- Settles O32: a reserved code's class is 11, its answer BAD_OP, and its two moves those of any request. -/
theorem reservedCodesAreAnsweredBadOp : Obligations.ReservedCodesAreAnsweredBadOp := by
  unfold Obligations.ReservedCodesAreAnsweredBadOp
  refine ⟨fun word width lsb val s => ⟨exec_next_answered _ s, exec_next_answered _ s⟩,
    fun r s rest _ => step_accepts, fun r q s rest hop hr hq hnext => ?_⟩
  have hbad : answerRequest r = .error .badOp :=
    answerRequest_reserved ((opClass_eq_iff r.op 0b11).1 hop) r.word r.width r.lsb r.val
  rw [step_answers hr hq hnext, hbad]

/-- Settles O44: a step is a move's result. -/
theorem everyStateHasANextState : Obligations.EveryStateHasANextState := by
  unfold Obligations.EveryStateHasANextState
  exact fun s => ⟨_, step_next_moveResult s⟩

/-- Settles O51: each step delivers the answer to the request, a function of the request alone. -/
theorem equalRequestsGetEqualResponses : Obligations.EqualRequestsGetEqualResponses := by
  unfold Obligations.EqualRequestsGetEqualResponses
  intro r q₁ q₂ s₁ s₂ m₁ m₂ hr₁ hr₂ hq₁ hq₂ hnext₁ hnext₂
  exact ⟨answerRequest r, _, _, step_answers hr₁ hq₁ hnext₁, step_answers hr₂ hq₂ hnext₂, rfl, rfl, rfl⟩

/-! ### Reset -/

/-- While `rst` is asserted the unit's own move empties Q. -/
theorem respondResult_of_asserted {s : State} (hr : s.rst = true) :
    respondResult s = { s with queue := [], rsp := none } := by
  rw [respondResult_of_not_enabled (.inl hr), idle, if_pos hr]

/-- While `rst` is asserted every move empties Q and emits nothing, and `rst` stays asserted but for the two moves that
release it (R170). -/
theorem moveResult_of_asserted (m : Move) {s : State} (hr : s.rst = true) :
    (moveResult m s).queue = [] ∧ (moveResult m s).rsp = none ∧ (moveResult m s).delivered = s.delivered ∧
      (m ≠ .reset → m ≠ .releaseRst → (moveResult m s).rst = true) := by
  cases m with
  | accept r => simp [moveResult, accept_queue_asserted, hr]
  | respond => simp [moveResult, respondResult_of_asserted, hr]
  | reset => simp [moveResult]
  | assertRst => simp [moveResult]
  | releaseRst => simp [moveResult, releaseRst_queue, hr]

/-- Settles O43: the two reset moves by definition; under an asserted reset every move by what it does. -/
theorem resetDropsWhatIsInFlight : Obligations.ResetDropsWhatIsInFlight := by
  unfold Obligations.ResetDropsWhatIsInFlight
  refine ⟨fun s rest hs => step_of_schedule_cons hs, fun s rest hs => step_of_schedule_cons hs, fun s hr => ?_⟩
  cases hs : s.schedule with
  | nil =>
    obtain ⟨hqueue, hrsp, hdelivered, hrst⟩ := moveResult_of_asserted .respond hr
    refine ⟨_, step_next_moveResult s, ?_⟩
    rw [nextMove_nil hs]
    exact ⟨hqueue, hrsp, hdelivered, fun _ => hrst nofun nofun⟩
  | cons m rest =>
    obtain ⟨hqueue, hrsp, hdelivered, hrst⟩ := moveResult_of_asserted m (s := { s with schedule := rest }) hr
    refine ⟨_, step_of_schedule_cons hs, hqueue, hrsp, hdelivered, fun hkeep => hrst ?_ ?_⟩
    · rintro rfl
      exact (hkeep rest).1 rfl
    · rintro rfl
      exact (hkeep rest).2 rfl

/-! ### The invariant -/

/-- A state with nothing on the response ports meets the invariant if Q is empty under reset. -/
theorem inv_of_rsp_none {s : State} (hrsp : s.rsp = none) (hqueue : s.rst = true → s.queue = []) : s.inv :=
  ⟨fun hr => ⟨hqueue hr, hrsp⟩, fun r hr => by rw [hrsp] at hr; cases hr⟩

/-- A state in which a response was just emitted meets the invariant outside reset. -/
theorem inv_answered {s : State} (hr : s.rst = false) (x : Response) : (s.answered x).inv := by
  refine ⟨fun hasserted => ?_, fun y hy => ?_⟩
  · exact absurd (hr.symm.trans hasserted) Bool.false_ne_true
  · rw [← Option.some.inj hy]
    exact List.getLast?_concat

/-- Every move leads to a state that meets the invariant, whatever it starts from. -/
theorem moveResult_inv (m : Move) (s : State) : (moveResult m s).inv := by
  cases m with
  | accept r => exact inv_of_rsp_none (accept_rsp s r) fun hr => accept_queue_asserted s r ((accept_rst s r).symm.trans hr)
  | respond =>
    rcases respond_cases s with ⟨r, q, hr, hq, -⟩ | ⟨hnot, -⟩
    · rw [moveResult, respondResult_of_cons hr hq]
      exact inv_answered (s := { s with queue := q }) hr _
    · rw [moveResult, respondResult_of_not_enabled hnot]
      exact inv_of_rsp_none rfl fun hr => idle_queue_asserted s hr
  | reset => exact inv_of_rsp_none rfl nofun
  | assertRst => exact inv_of_rsp_none rfl fun _ => rfl
  | releaseRst => exact inv_of_rsp_none rfl nofun

/-- Settles O45: a step is a move's result, and every move gives the invariant. -/
theorem stepKeepsTheInvariant : Obligations.StepKeepsTheInvariant := by
  unfold Obligations.StepKeepsTheInvariant
  intro s t _ hstep
  rw [step_next_moveResult] at hstep
  injection hstep with hstate
  exact hstate ▸ moveResult_inv _ _

/-- Settles O46: the state right after reset has nothing on the ports and nothing in flight. -/
theorem resetStateMeetsTheInvariant : Obligations.ResetStateMeetsTheInvariant := by
  unfold Obligations.ResetStateMeetsTheInvariant
  exact ⟨inv_of_rsp_none rfl fun _ => rfl, rfl, rfl, rfl⟩

/-! ### What is owed -/

/-- The state that a step leads to. -/
def nextState (s : State) : State := moveResult (nextMove s).1 (nextMove s).2

theorem step_eq_nextState (s : State) : step s = .next (nextState s) := step_next_moveResult s

theorem nextState_of_schedule_nil {s : State} (h : s.schedule = []) : nextState s = moveResult .respond s := by
  rw [nextState, nextMove_nil h]

theorem nextState_of_schedule_cons {s : State} {m : Move} {rest : List Move} (h : s.schedule = m :: rest) :
    nextState s = moveResult m { s with schedule := rest } := by
  rw [nextState, nextMove_cons h]

/-- Outside reset, with no reset to come, and with the responses `rs` owed. -/
def State.owes (rs : List Response) (s : State) : Prop :=
  s.rst = false ∧ noReset s.schedule = true ∧ owed s = rs

/-- The unit's own move takes from what is in flight what it delivers. -/
theorem respondResult_owes {rs : List Response} {s : State} (h : s.owes rs) : (respondResult s).owes rs := by
  obtain ⟨hr, hreset, rfl⟩ := h
  cases hq : s.queue with
  | nil =>
    rw [respondResult_of_not_enabled (.inr hq)]
    exact ⟨hr, hreset, by simp [owed, idle_queue_released s hr]⟩
  | cons r q =>
    rw [respondResult_of_cons hr hq]
    exact ⟨hr, hreset, by simp [owed, hq]⟩

/-- An accept adds to what is in flight what it was to present. -/
theorem accept_owes {rs : List Response} {s : State} {r : Request}
    (h : { s with schedule := .accept r :: s.schedule }.owes rs) : (accept r s).owes rs := by
  obtain ⟨hr, hreset, rfl⟩ := h
  refine ⟨(accept_rst s r).trans hr, by rw [accept_schedule]; exact hreset, ?_⟩
  simp [owed, accept_queue_released s r hr, presented]

/-- A step keeps what is owed. -/
theorem nextState_owes {rs : List Response} {s : State} (h : s.owes rs) : (nextState s).owes rs := by
  obtain ⟨queue, rst, rsp, delivered, schedule⟩ := s
  cases schedule with
  | nil => exact respondResult_owes h
  | cons m rest =>
    cases m with
    | accept r => exact accept_owes h
    | respond => exact respondResult_owes h
    | reset => exact absurd h.2.1 Bool.false_ne_true
    | assertRst => exact absurd h.2.1 Bool.false_ne_true
    | releaseRst => exact absurd h.2.1 Bool.false_ne_true

/-- Settles O47: an accept moves a response from the schedule's part to Q's, a respond from Q's to the delivered. -/
theorem stepKeepsWhatIsOwed : Obligations.StepKeepsWhatIsOwed := by
  unfold Obligations.StepKeepsWhatIsOwed
  intro s t hr hreset hstep
  rw [step_eq_nextState] at hstep
  injection hstep with hstate
  exact hstate ▸ nextState_owes ⟨hr, hreset, rfl⟩

/-! ### Runs -/

/-- A run never stops early: it is the step's next state, iterated. -/
theorem runSteps_eq_iterate (k : Nat) (s : State) : runSteps k s = .next (nextState^[k] s) := by
  induction k generalizing s with
  | zero => rfl
  | succ k ih => exact (runSteps_succ k s).trans (ih _)

/-- A move takes nothing off the schedule and puts nothing on it. -/
@[simp] theorem moveResult_schedule (m : Move) (s : State) : (moveResult m s).schedule = s.schedule := by
  cases m with
  | respond =>
    rcases respond_cases s with ⟨r, q, hr, hq, -⟩ | ⟨hnot, -⟩
    · rw [moveResult, respondResult_of_cons hr hq]
    · rw [moveResult, respondResult_of_not_enabled hnot, idle_schedule]
  | _ => simp [moveResult]

/-- The unit's own move takes a request off Q, where there is one. -/
theorem respondResult_queue_length_le (s : State) : (respondResult s).queue.length ≤ s.queue.length - 1 := by
  rcases respond_cases s with ⟨r, q, hr, hq, -⟩ | ⟨hr | hq, -⟩
  · rw [respondResult_of_cons hr hq, hq, List.length_cons, Nat.add_sub_cancel]
  · rw [respondResult_of_asserted hr]
    exact Nat.zero_le _
  · rw [respondResult_of_not_enabled (.inr hq), idle, hq, ite_self]
    exact Nat.zero_le _

/-- A move puts at most one request on Q. -/
theorem moveResult_queue_length_le (m : Move) (s : State) : (moveResult m s).queue.length ≤ s.queue.length + 1 := by
  cases hr : s.rst with
  | true => simp [moveResult_of_asserted m hr]
  | false =>
    cases m with
    | accept r => simp [moveResult, accept_queue_released s r hr]
    | respond => exact (respondResult_queue_length_le s).trans (by omega)
    | releaseRst => simp [moveResult, releaseRst_queue, hr]
    | _ => simp [moveResult]

/-- A step brings the end of the run nearer, until there is nothing left to do. -/
theorem stepsToEnd_nextState_le (s : State) : stepsToEnd (nextState s) ≤ stepsToEnd s - 1 := by
  cases hs : s.schedule with
  | nil =>
    have hqueue := respondResult_queue_length_le s
    rw [nextState_of_schedule_nil hs, stepsToEnd, stepsToEnd, moveResult_schedule, hs, List.length_nil, moveResult]
    omega
  | cons m rest =>
    have hqueue := moveResult_queue_length_le m { s with schedule := rest }
    rw [nextState_of_schedule_cons hs, stepsToEnd, stepsToEnd, moveResult_schedule, hs, List.length_cons]
    dsimp only at hqueue ⊢
    omega

/-- The steps still to make after `k` of them. -/
theorem stepsToEnd_iterate_le (k : Nat) (s : State) : stepsToEnd (nextState^[k] s) ≤ stepsToEnd s - k := by
  induction k generalizing s with
  | zero => exact le_rfl
  | succ k ih =>
    have hfirst := stepsToEnd_nextState_le s
    have hrest := ih (nextState s)
    rw [Function.iterate_succ_apply]
    omega

/-- No step is left exactly where no move is scheduled and Q is empty. -/
theorem stepsToEnd_eq_zero_iff (s : State) : stepsToEnd s = 0 ↔ s.schedule = [] ∧ s.queue = [] := by
  simp [stepsToEnd]

/-- After the bounded number of steps no move is left and the run is over. -/
theorem run_ends (s : State) :
    (nextState^[stepsToEnd s] s).runOver ∧ (nextState^[stepsToEnd s] s).schedule = [] := by
  have hbound := stepsToEnd_iterate_le (stepsToEnd s) s
  rw [Nat.sub_self, Nat.le_zero, stepsToEnd_eq_zero_iff] at hbound
  obtain ⟨hschedule, hqueue⟩ := hbound
  exact ⟨⟨by rw [hschedule, presented], hqueue⟩, hschedule⟩

/-- Settles O48: what is owed is kept to the end of the run, and a run that is over has delivered it. -/
theorem runDeliversExactlyWhatIsOwed : Obligations.RunDeliversExactlyWhatIsOwed := by
  unfold Obligations.RunDeliversExactlyWhatIsOwed
  intro s hr hreset
  obtain ⟨hover, hschedule⟩ := run_ends s
  have hs : s.owes (owed s) := ⟨hr, hreset, rfl⟩
  obtain ⟨-, -, howed⟩ := Function.Iterate.rec (State.owes (owed s)) hs (fun _ => nextState_owes) (stepsToEnd s)
  exact ⟨_, runSteps_eq_iterate _ s, hover, hschedule, (owed_of_runOver hover).symm.trans howed⟩

/-- After a reset step only what was delivered before and what is still to be presented is owed. -/
theorem owes_after_reset {s : State} {rest : List Move} (hs : s.schedule = .reset :: rest) (hreset : noReset rest = true) :
    (nextState s).owes (s.delivered ++ (presented rest).map answerRequest) := by
  rw [nextState_of_schedule_cons hs]
  exact ⟨rfl, hreset, rfl⟩

/-- Settles O49: the reset step drops what is in flight from what is owed, and the run from there on keeps it. -/
theorem runAfterResetAnswersOnlyLaterRequests : Obligations.RunAfterResetAnswersOnlyLaterRequests := by
  unfold Obligations.RunAfterResetAnswersOnlyLaterRequests
  intro s rest hs hreset
  obtain ⟨hover, hschedule⟩ := run_ends s
  refine ⟨_, runSteps_eq_iterate _ s, hover, hschedule, (owed_of_runOver hover).symm.trans ?_⟩
  obtain ⟨k, hk⟩ : ∃ k, stepsToEnd s = k + 1 := ⟨stepsToEnd s - 1, by rw [stepsToEnd, hs, List.length_cons]; omega⟩
  obtain ⟨-, -, howed⟩ := Function.Iterate.rec (State.owes _) (owes_after_reset hs hreset) (fun _ => nextState_owes) k
  rw [hk, Function.iterate_succ_apply]
  exact howed

/-- A schedule presents what its first move presents, then what the others do. -/
theorem presented_cons (m : Move) (ms : List Move) : presented (m :: ms) = presented [m] ++ presented ms := by
  cases m <;> rfl

/-- A run that is over stays over, and a step of it delivers nothing (R179). -/
theorem nextState_of_runOver {s : State} (h : s.runOver) :
    (nextState s).runOver ∧ (nextState s).delivered = s.delivered := by
  obtain ⟨hpresented, hq⟩ := h
  cases hs : s.schedule with
  | nil =>
    obtain ⟨hdelivered, hschedule, hqueue⟩ := moveResult_of_queue_empty .respond hq
    rw [nextState_of_schedule_nil hs]
    exact ⟨⟨hschedule ▸ hpresented, hqueue rfl⟩, hdelivered⟩
  | cons m rest =>
    rw [hs, presented_cons, List.append_eq_nil_iff] at hpresented
    obtain ⟨hfirst, hrest⟩ := hpresented
    obtain ⟨hdelivered, hschedule, hqueue⟩ := moveResult_of_queue_empty m (s := { s with schedule := rest }) hq
    rw [nextState_of_schedule_cons hs]
    exact ⟨⟨hschedule ▸ hrest, hqueue hfirst⟩, hdelivered⟩

/-- Settles O50: the bound is on every run, and a run that is over is kept so by every step. -/
theorem everyRunIsOver : Obligations.EveryRunIsOver := by
  unfold Obligations.EveryRunIsOver
  refine fun s => ⟨⟨_, runSteps_eq_iterate _ s, run_ends s⟩, fun hover k => ⟨_, runSteps_eq_iterate k s, ?_⟩⟩
  induction k with
  | zero => exact ⟨hover, rfl⟩
  | succ k ih =>
    obtain ⟨hk, hdelivered⟩ := ih
    obtain ⟨hnext, hsame⟩ := nextState_of_runOver hk
    rw [Function.iterate_succ_apply']
    exact ⟨hnext, hsame.trans hdelivered⟩

/-- Settles O52: one step accepts the request into an empty Q, the next answers it. -/
theorem firstRequestAfterResetIsAnswered : Obligations.FirstRequestAfterResetIsAnswered := by
  unfold Obligations.FirstRequestAfterResetIsAnswered
  intro r
  have haccept : nextState { State.reset with schedule := [.accept r] } = { State.reset with queue := [r] } := rfl
  have hrespond : nextState { State.reset with queue := [r] } = State.reset.answered (answerRequest r) :=
    respondResult_of_cons (s := { State.reset with queue := [r] }) rfl rfl
  rw [runSteps_eq_iterate, Function.iterate_succ_apply, haccept, Function.iterate_one, hrespond]
  rfl

end Sys2Proof.Machine
end

section
/-! The unit at its ports, cycle by cycle: timing, depth and reset, and how it refines the machine (R32, R170, R176). -/

namespace Sys2Proof.Machine

/-! ### One cycle -/

section
variable {style : ResetStyle} {c : Cycle}

/-- A cycle with reset asserted clears every valid bit (R35, R170). -/
theorem clockStages_of_asserted (st : Stages) (h : rstAsserted style c.rstPin = true) :
    clockStages style st c = emptyStages st.length := by
  rw [clockStages, if_pos h, List.map_const', emptyStages]

/-- Nothing leaves the pipeline in a cycle with reset asserted (R170). -/
theorem leaving_of_asserted (st : Stages) (h : rstAsserted style c.rstPin = true) : leaving style st c = none :=
  if_pos h

/-- A cycle with reset asserted has no response (R170). -/
theorem clockOutput_of_asserted (st : Stages) (h : rstAsserted style c.rstPin = true) :
    clockOutput style st c = none := by
  rw [clockOutput, leaving_of_asserted st h, Option.map_none]

/-- Outside reset what is presented enters at one end of the pipeline and what leaves it is the other end (R32, R176). -/
theorem clockStages_append_leaving (st : Stages) (h : rstAsserted style c.rstPin = false) :
    clockStages style st c ++ [leaving style st c] = c.req :: st := by
  rw [clockStages, leaving, if_neg (Bool.eq_false_iff.1 h)]
  simp only [if_neg (Bool.eq_false_iff.1 h)]
  exact List.dropLast_append_getLast _

/-- The same, oldest first. -/
theorem leaving_cons_reverse_clockStages (st : Stages) (h : rstAsserted style c.rstPin = false) :
    leaving style st c :: (clockStages style st c).reverse = st.reverse ++ [c.req] := by
  have hreverse := congrArg List.reverse (clockStages_append_leaving st h)
  rwa [List.reverse_concat, List.reverse_cons] at hreverse

/-- The pipeline keeps its LATENCY stages. -/
@[simp] theorem clockStages_length (style : ResetStyle) (st : Stages) (c : Cycle) :
    (clockStages style st c).length = st.length := by
  unfold clockStages
  split
  · exact List.length_map _
  · simp

end

/-- Settles O55: the cycle itself clears the pipeline, and the next cycles go on from the cleared one. -/
theorem assertedResetClearsThePipeline : Obligations.AssertedResetClearsThePipeline := by
  unfold Obligations.AssertedResetClearsThePipeline
  intro style st c cs h
  refine ⟨clockOutput_of_asserted st h, clockStages_of_asserted st h, ?_⟩
  rw [clockOutputs, clockOutput_of_asserted st h, clockStages_of_asserted st h]

/-! ### A run of cycles -/

/-- Any run of cycles keeps the LATENCY stages. -/
@[simp] theorem clockRun_length (style : ResetStyle) (st : Stages) (cs : List Cycle) :
    (clockRun style st cs).length = st.length := by
  induction cs generalizing st with
  | nil => rfl
  | cons c cs ih => rw [clockRun, ih, clockStages_length]

/-- The response ports are read once a cycle. -/
@[simp] theorem clockOutputs_length (style : ResetStyle) (st : Stages) (cs : List Cycle) :
    (clockOutputs style st cs).length = cs.length := by
  induction cs generalizing st with
  | nil => rfl
  | cons c cs ih => rw [clockOutputs, List.length_cons, ih, List.length_cons]

@[simp] theorem emptyStages_length (latency : Nat) : (emptyStages latency).length = latency :=
  List.length_replicate

/-- At most as many requests are in flight as there are stages (R177). -/
theorem inFlight_length_le (st : Stages) : (inFlight st).length ≤ st.length :=
  (List.reduceOption_length_le st.reverse).trans_eq List.length_reverse

/-- Settles O54: outside reset the line moves on by one place, and no cycle changes the number of stages. -/
theorem atMostLatencyInFlight : Obligations.AtMostLatencyInFlight := by
  unfold Obligations.AtMostLatencyInFlight
  intro style latency cs
  have hlength : (clockRun style (emptyStages latency) cs).length = latency := by
    rw [clockRun_length, emptyStages_length]
  refine ⟨fun c h => ⟨clockStages_append_leaving _ h, rfl⟩, hlength, ?_, clockOutputs_length ..⟩
  exact (inFlight_length_le _).trans_eq hlength

/-- What is to leave the pipeline, one entry a cycle, oldest first: what the stages hold, then what the cycles present. -/
def portLine (st : Stages) (cs : List Cycle) : List (Option Request) := st.reverse ++ cs.map Cycle.req

/-- Outside reset the responses are those of the line, entry by entry, as far as there are cycles (R176). -/
theorem clockOutputs_eq_take_portLine {style : ResetStyle} (st : Stages) {cs : List Cycle}
    (h : ∀ c ∈ cs, rstAsserted style c.rstPin = false) :
    clockOutputs style st cs = ((portLine st cs).take cs.length).map (Option.map answerRequest) := by
  induction cs generalizing st with
  | nil => simp [clockOutputs]
  | cons c cs ih =>
    obtain ⟨hc, hcs⟩ := List.forall_mem_cons.1 h
    have hline : portLine st (c :: cs) = leaving style st c :: portLine (clockStages style st c) cs := by
      rw [portLine, portLine, ← List.cons_append, leaving_cons_reverse_clockStages st hc, List.map_cons,
        List.append_assoc, List.singleton_append]
    rw [clockOutputs, ih _ hcs, hline, List.length_cons, List.take_succ_cons, List.map_cons, clockOutput]

/-- Right after reset the line begins with LATENCY entries that hold no request (R35). -/
theorem portLine_emptyStages (latency : Nat) (cs : List Cycle) :
    portLine (emptyStages latency) cs = List.replicate latency none ++ cs.map Cycle.req := by
  rw [portLine, emptyStages, List.reverse_replicate]

/-- Settles O53: entry `t + LATENCY` of the line is what cycle `t` presents, and the entries before LATENCY are empty. -/
theorem responseComesLatencyCyclesLater : Obligations.ResponseComesLatencyCyclesLater := by
  unfold Obligations.ResponseComesLatencyCyclesLater
  intro style latency cs h
  rw [clockOutputs_eq_take_portLine _ h, portLine_emptyStages]
  refine ⟨fun t ht => ?_, fun t ht hcs => ?_⟩
  · rw [List.getElem?_map, List.getElem?_take_of_lt ht, List.getElem?_append_right (by simp), List.length_replicate,
      Nat.add_sub_cancel, List.getElem?_map, Option.map_map]
    rfl
  · rw [List.getElem?_map, List.getElem?_take_of_lt hcs, List.getElem?_append_left (by simpa using ht),
      List.getElem?_replicate_of_lt ht]
    rfl

/-- A quiet cycle does not assert reset, whatever the polarity. -/
theorem rstAsserted_quietCycle (style : ResetStyle) : rstAsserted style (quietCycle style).rstPin = false := by
  obtain ⟨polarity, synchrony⟩ := style
  cases polarity <;> rfl

/-- Settles O57: the whole line of the requests presented passes the ports, and only its requests are answered. -/
theorem responsesDoNotDependOnLatency : Obligations.ResponsesDoNotDependOnLatency := by
  unfold Obligations.ResponsesDoNotDependOnLatency
  intro style latency cs h
  have hall : ∀ c ∈ cs ++ List.replicate latency (quietCycle style), rstAsserted style c.rstPin = false := by
    intro c hc
    rcases List.mem_append.1 hc with hc | hc
    · exact h c hc
    · rw [List.eq_of_mem_replicate hc, rstAsserted_quietCycle]
  have htake : (portLine (emptyStages latency) (cs ++ List.replicate latency (quietCycle style))).take
      (cs ++ List.replicate latency (quietCycle style)).length = List.replicate latency none ++ cs.map Cycle.req := by
    rw [portLine_emptyStages, List.map_append, ← List.append_assoc]
    exact List.take_left' (by simp [Nat.add_comm])
  rw [clockOutputs_eq_take_portLine _ hall, htake]
  change (List.map (Option.map answerRequest) _).reduceOption = _
  rw [List.reduceOption_map, List.reduceOption_append, List.reduceOption_replicate_none, List.nil_append,
    List.reduceOption, List.filterMap_map]
  rfl

/-! ### Q as the pipeline holds it -/

theorem inFlight_eq_reduceOption (st : Stages) : inFlight st = st.reverse.reduceOption := rfl

/-- A list of entries with one more in front holds that entry's request, if any, before the others. -/
theorem reduceOption_cons {α : Type} (o : Option α) (os : List (Option α)) :
    (o :: os).reduceOption = o.toList ++ os.reduceOption := by
  rw [← List.singleton_append, List.reduceOption_append, List.reduceOption_singleton]

/-- A request that enters the pipeline is the newest in flight. -/
theorem inFlight_cons (o : Option Request) (st : Stages) : inFlight (o :: st) = inFlight st ++ o.toList := by
  rw [inFlight_eq_reduceOption, inFlight_eq_reduceOption, List.reverse_cons, List.reduceOption_append,
    List.reduceOption_singleton]

/-- The request in the last stage is the oldest in flight. -/
theorem inFlight_concat (st : Stages) (o : Option Request) : inFlight (st ++ [o]) = o.toList ++ inFlight st := by
  rw [inFlight_eq_reduceOption, inFlight_eq_reduceOption, List.reverse_concat, reduceOption_cons]

/-- Right after reset nothing is in flight. -/
theorem inFlight_emptyStages (latency : Nat) : inFlight (emptyStages latency) = [] := by
  rw [inFlight_eq_reduceOption, emptyStages, List.reverse_replicate, List.reduceOption_replicate_none]

/-- Outside reset, the requests in flight and the one presented are the one that leaves and those still in flight. -/
theorem inFlight_append_req {style : ResetStyle} {c : Cycle} (st : Stages) (h : rstAsserted style c.rstPin = false) :
    inFlight st ++ c.req.toList = (leaving style st c).toList ++ inFlight (clockStages style st c) := by
  rw [← inFlight_cons, ← clockStages_append_leaving st h, inFlight_concat]

/-! ### Cycles as moves of the machine -/

/-- Outside reset, with `q` in flight, `ds` delivered and the moves `ms` to come. -/
def State.holds (q : List Request) (ds : List Response) (ms : List Move) (s : State) : Prop :=
  s.rst = false ∧ s.queue = q ∧ s.delivered = ds ∧ s.schedule = ms

section
variable {s : State} {q : List Request} {ds : List Response} {ms : List Move}

/-- The reset step. -/
theorem nextState_holds_reset (h : s.holds q ds (.reset :: ms)) : (nextState s).holds [] ds ms := by
  obtain ⟨-, -, rfl, hs⟩ := h
  rw [nextState_of_schedule_cons hs]
  exact ⟨rfl, rfl, rfl, rfl⟩

/-- The accept step. -/
theorem nextState_holds_accept {r : Request} (h : s.holds q ds (.accept r :: ms)) :
    (nextState s).holds (q ++ [r]) ds ms := by
  obtain ⟨hr, rfl, rfl, hs⟩ := h
  rw [nextState_of_schedule_cons hs]
  exact ⟨(accept_rst _ r).trans hr, accept_queue_released _ r hr, accept_delivered _ r, accept_schedule _ r⟩

/-- The respond step. -/
theorem nextState_holds_respond {r : Request} (h : s.holds (r :: q) ds (.respond :: ms)) :
    (nextState s).holds q (ds ++ [answerRequest r]) ms := by
  obtain ⟨hr, hq, rfl, hs⟩ := h
  rw [nextState_of_schedule_cons hs, moveResult, respondResult_of_cons (s := { s with schedule := ms }) hr hq]
  exact ⟨hr, rfl, rfl, rfl⟩

/-- The accept of the request a cycle presents, if it presents one. -/
theorem iterate_holds_accept {o : Option Request} (h : s.holds q ds ((o.map Move.accept).toList ++ ms)) :
    (nextState^[(o.map Move.accept).toList.length] s).holds (q ++ o.toList) ds ms := by
  cases o with
  | none =>
    rw [Option.toList_none, List.append_nil]
    exact h
  | some r => exact nextState_holds_accept h

/-- The answer to the request that leaves the pipeline, if one leaves it. -/
theorem iterate_holds_respond {o : Option Request}
    (h : s.holds (o.toList ++ q) ds ((o.map fun _ => Move.respond).toList ++ ms)) :
    (nextState^[(o.map fun _ => Move.respond).toList.length] s).holds q (ds ++ (o.map answerRequest).toList) ms := by
  cases o with
  | none =>
    rw [Option.map_none, Option.map_none, Option.toList_none, List.append_nil]
    exact h
  | some r => exact nextState_holds_respond h

/-- The machine makes the moves of one cycle: Q follows the pipeline, and what is delivered is what the ports show. -/
theorem iterate_holds_cycle {style : ResetStyle} {st : Stages} {c : Cycle}
    (h : s.holds (inFlight st) ds (cycleMoves style st c ++ ms)) :
    (nextState^[(cycleMoves style st c).length] s).holds (inFlight (clockStages style st c))
      (ds ++ (clockOutput style st c).toList) ms := by
  cases hrst : rstAsserted style c.rstPin with
  | true =>
    rw [cycleMoves, if_pos hrst] at h ⊢
    rw [clockStages_of_asserted st hrst, inFlight_emptyStages, clockOutput_of_asserted st hrst, Option.toList_none,
      List.append_nil]
    exact nextState_holds_reset h
  | false =>
    rw [cycleMoves, if_neg (Bool.eq_false_iff.1 hrst)] at h ⊢
    rw [List.append_assoc] at h
    have haccepted := iterate_holds_accept h
    rw [inFlight_append_req st hrst] at haccepted
    rw [List.length_append, Nat.add_comm, Function.iterate_add_apply]
    exact iterate_holds_respond haccepted

/-- The machine makes the moves of a trace. -/
theorem iterate_holds_trace {style : ResetStyle} {st : Stages} {cs : List Cycle}
    (h : s.holds (inFlight st) ds (traceMoves style st cs)) :
    (nextState^[(traceMoves style st cs).length] s).holds (inFlight (clockRun style st cs))
      (ds ++ (clockOutputs style st cs).reduceOption) [] := by
  induction cs generalizing st s ds with
  | nil =>
    rw [clockOutputs, List.reduceOption_nil, List.append_nil]
    exact h
  | cons c cs ih =>
    rw [traceMoves] at h
    rw [traceMoves, List.length_append, Nat.add_comm, Function.iterate_add_apply, clockRun, clockOutputs,
      reduceOption_cons, ← List.append_assoc]
    exact ih (iterate_holds_cycle h)

end

/-- Settles O56: by induction on the trace, the machine makes each cycle's moves. -/
theorem clockedUnitRefinesTheMachine : Obligations.ClockedUnitRefinesTheMachine := by
  unfold Obligations.ClockedUnitRefinesTheMachine
  intro style st cs s hr hq hs
  obtain ⟨hrst, hqueue, hdelivered, hschedule⟩ := iterate_holds_trace ⟨hr, hq, rfl, hs⟩
  exact ⟨_, runSteps_eq_iterate _ s, hrst, hschedule, hqueue, hdelivered⟩

end Sys2Proof.Machine
end

section
/-! The second design of the response function (R98, G1): the barrel shifters, the sign fill and the three stages. -/

namespace Sys2Proof.Machine

/-! ### The barrel shifters -/

/-- The amount's bits from 6 on are zero exactly where it is below 64. -/
theorem amountHigh_eq_zero_iff (amount : Word) : amount.extractLsb' 6 58 = 0 ↔ U amount < 64 := by
  have hlt : U amount < 2 ^ 64 := amount.isLt
  rw [← BitVec.toNat_inj, BitVec.extractLsb'_toNat, Nat.shiftRight_eq_div_pow, BitVec.ofNat_eq_ofNat, BitVec.toNat_zero]
  change U amount / 2 ^ 6 % 2 ^ 58 = 0 ↔ U amount < 64
  omega

/-- The low `k + 1` bits of an amount are its low `k` bits and bit `k` with its weight. -/
theorem mod_two_pow_succ_eq (amount : Word) (k : Nat) :
    U amount % 2 ^ (k + 1) = U amount % 2 ^ k + if amount.getLsbD k then 2 ^ k else 0 := by
  rw [Nat.pow_succ, Nat.mod_mul, ← BitVec.testBit_toNat, Nat.testBit_eq_decide_div_mod_eq]
  rcases Nat.mod_two_eq_zero_or_one (U amount / 2 ^ k) with hbit | hbit
  · rw [hbit, Nat.mul_zero]
    rfl
  · rw [hbit, Nat.mul_one]
    rfl

/-- A right layer adds its bit of the amount to the shift made so far. -/
theorem shrLayer_ushiftRight (amount x : Word) (k : Nat) :
    shrLayer amount k (x >>> (U amount % 2 ^ k)) = x >>> (U amount % 2 ^ (k + 1)) := by
  rw [mod_two_pow_succ_eq, BitVec.shiftRight_add, shrLayer]
  split
  · rfl
  · rw [BitVec.ushiftRight_zero]

/-- A left layer adds its bit of the amount to the shift made so far. -/
theorem shlLayer_shiftLeft (amount x : Word) (k : Nat) :
    shlLayer amount k (x <<< (U amount % 2 ^ k)) = x <<< (U amount % 2 ^ (k + 1)) := by
  rw [mod_two_pow_succ_eq, BitVec.shiftLeft_add, shlLayer]
  split
  · rfl
  · rw [BitVec.shiftLeft_zero]

/-- The right barrel shifter is SHR (R92). -/
theorem barrelShr_eq_shr (x amount : Word) : barrelShr x amount = shr x (U amount) := by
  rw [shr_eq_ushiftRight, barrelShr]
  by_cases h : U amount < 64
  · have hstart : x = x >>> (U amount % 2 ^ 0) := by rw [Nat.pow_zero, Nat.mod_one, BitVec.ushiftRight_zero]
    rw [if_pos ((amountHigh_eq_zero_iff amount).2 h)]
    conv_lhs => rw [hstart]
    simp only [shrLayer_ushiftRight]
    rw [Nat.mod_eq_of_lt (b := 2 ^ (5 + 1)) h]
  · rw [if_neg (mt (amountHigh_eq_zero_iff amount).1 h), BitVec.ushiftRight_eq_zero (Nat.not_lt.1 h)]
    rfl

/-- The left barrel shifter is SHL (R93). -/
theorem barrelShl_eq_shl (x amount : Word) : barrelShl x amount = shl x (U amount) := by
  rw [shl_eq_shiftLeft, barrelShl]
  by_cases h : U amount < 64
  · have hstart : x = x <<< (U amount % 2 ^ 0) := by rw [Nat.pow_zero, Nat.mod_one, BitVec.shiftLeft_zero]
    rw [if_pos ((amountHigh_eq_zero_iff amount).2 h)]
    conv_lhs => rw [hstart]
    simp only [shlLayer_shiftLeft]
    rw [Nat.mod_eq_of_lt (b := 2 ^ (5 + 1)) h]
  · rw [if_neg (mt (amountHigh_eq_zero_iff amount).1 h), BitVec.shiftLeft_eq_zero (Nat.not_lt.1 h)]
    rfl

/-- Settles O58: six layers shift by the low six bits of the amount, which is all of it below 64. -/
theorem barrelShiftersComputeTheShifts : Obligations.BarrelShiftersComputeTheShifts := by
  unfold Obligations.BarrelShiftersComputeTheShifts
  exact fun x amount => ⟨barrelShr_eq_shr x amount, barrelShl_eq_shl x amount⟩

/-! ### The sign fill -/

/-- The mask's highest 1: bit `w - 1` alone, and no bit for width 0. -/
theorem mask_xor_shiftRight_getLsbD {w : Nat} (hw64 : w ≤ 64) (i : Nat) :
    (mask w ^^^ (mask w >>> 1)).getLsbD i = decide (i + 1 = w) := by
  rw [BitVec.getLsbD_xor, BitVec.getLsbD_ushiftRight, mask_getLsbD, mask_getLsbD]
  rcases Nat.lt_trichotomy (i + 1) w with hi | hi | hi
  · simp [show i < w by omega, show i < 64 by omega, show 1 + i < w by omega, show 1 + i < 64 by omega, hi.ne]
  · simp [show i < w by omega, show i < 64 by omega, show ¬1 + i < w by omega, hi]
  · simp [show ¬i < w by omega, show ¬1 + i < w by omega, hi.ne']

/-- A field has no bit under the mask's highest 1 exactly where its sign bit is clear. -/
theorem and_mask_xor_shiftRight_eq_zero_iff (f : Word) {w : Nat} (hw : 1 ≤ w) (hw64 : w ≤ 64) :
    f &&& (mask w ^^^ (mask w >>> 1)) = 0 ↔ f.getLsbD (w - 1) = false := by
  simp only [BitVec.eq_of_getLsbD_eq_iff, BitVec.getLsbD_and, mask_xor_shiftRight_getLsbD hw64, BitVec.ofNat_eq_ofNat,
    BitVec.getLsbD_zero]
  constructor
  · intro h
    have hbit := h (w - 1) (by omega)
    rwa [decide_eq_true (by omega), Bool.and_true] at hbit
  · intro h i _
    by_cases hi : i + 1 = w
    · rw [show i = w - 1 by omega, h, Bool.false_and]
    · rw [decide_eq_false hi, Bool.and_false]

/-- The fan-out of the sign bit is sext (R95). -/
theorem signFill_eq_sext {f : Word} {w : Nat} (hw64 : w ≤ 64) (hf : ∀ i, w ≤ i → f.getLsbD i = false) :
    signFill f (mask w) = sext w f := by
  rcases Nat.eq_zero_or_pos w with rfl | hw
  · have hzero : f = 0 := BitVec.eq_of_getLsbD_eq fun i _ => (hf i (Nat.zero_le i)).trans BitVec.getLsbD_zero.symm
    rw [hzero, sext_width_zero]
    rfl
  · rw [signFill]
    cases hs : f.getLsbD (w - 1) with
    | false => rw [if_pos ((and_mask_xor_shiftRight_eq_zero_iff f hw hw64).2 hs), sext_of_signBit_clear hw hs]
    | true =>
      have hset := mt (and_mask_xor_shiftRight_eq_zero_iff f hw hw64).1 (by rw [hs]; decide)
      rw [if_neg hset, sext_of_signBit_set hw hs]

/-! ### The three stages -/

/-- The signed comparison of stage 1 is the predicate (R114). -/
theorem fitsSBits_eq_fitsS (val : Word) (w : Nat) : fitsSBits val w = fitsS (S val) w := by
  rw [Bool.eq_iff_iff]
  rcases Nat.eq_zero_or_pos w with rfl | hw
  · rw [fitsS_zero_iff, fitsSBits, if_pos rfl, beq_iff_eq]
    exact (BitVec.toInt_inj (y := 0)).symm
  · rw [fitsS_iff_and_not_mask val hw, fitsSBits, if_neg (by omega), Bool.or_eq_true, beq_iff_eq, beq_iff_eq]

/-- The unsigned comparison of stage 1 is the predicate (R115). -/
theorem fitsUBits_eq_fitsU (val : Word) (w : Nat) : fitsUBits val w = fitsU (U val) w := by
  rw [Bool.eq_iff_iff, fitsU_iff_high_bits_clear, ← and_not_mask_eq_zero_iff, fitsUBits, beq_iff_eq]

@[simp] theorem stage2_op (r : Request) : (stage2 (stage1 r)).op = r.op := rfl
@[simp] theorem stage2_mask (r : Request) : (stage2 (stage1 r)).mask = mask (U r.width) := rfl

/-- The comparison of stage 1 is the predicate of the request's signedness. -/
@[simp] theorem stage2_fits (r : Request) :
    (stage2 (stage1 r)).fits = valueFits (!opUnsigned r.op) r.val (U r.width) := by
  rw [stage2, stage1]
  cases opUnsigned r.op with
  | true => exact fitsUBits_eq_fitsU _ _
  | false => exact fitsSBits_eq_fitsS _ _

/-- The field check of stage 1 is containment (R90). -/
@[simp] theorem stage2_fieldOk (r : Request) : (stage2 (stage1 r)).fieldOk = decide (U r.lsb + U r.width ≤ 64) :=
  (fieldOk_eq_fieldOkBits r.width r.lsb).symm

/-- Stage 2's shifted word under the mask is the field (R94). -/
theorem stage2_field (r : Request) :
    (stage2 (stage1 r)).shifted &&& mask (U r.width) = extract r.word (U r.width) (U r.lsb) := by
  simp only [stage2, stage1, barrelShr_eq_shr, extract]

/-- What stage 2 lets a set merge is INSERT of the masked value, where the value fits (R96, R131). -/
theorem stage2_merged {r : Request} (hfit : valueFits (!opUnsigned r.op) r.val (U r.width) = true) :
    (stage2 (stage1 r)).word &&& ~~~(stage2 (stage1 r)).fieldMask ||| (stage2 (stage1 r)).placed =
      insert r.word (U r.width) (U r.lsb) (r.val &&& mask (U r.width)) := by
  have hpattern : (stage1 r).pattern = r.val &&& mask (U r.width) := by
    rw [stage1]
    cases hsign : opUnsigned r.op with
    | true =>
      rw [hsign] at hfit
      exact (and_mask_of_fitsU hfit).symm
    | false => rfl
  simp only [stage2, barrelShl_eq_shl, hpattern]
  rfl

section
variable {s : Stage2}

/-- Stage 3 for a fits. -/
theorem stage3_of_fits (h : opClass s.op = 0) : stage3 s = .ok (zext64 s.fits) := by
  rw [stage3, if_neg (by rw [h]; decide), if_pos h]

/-- Stage 3 for a get. -/
theorem stage3_of_get (h : opClass s.op = 1) :
    stage3 s = if s.fieldOk = true then
      .ok (if opUnsigned s.op then s.shifted &&& s.mask else signFill (s.shifted &&& s.mask) s.mask)
      else .error .badField := by
  rw [stage3, if_neg (by rw [h]; decide), if_neg (by rw [h]; decide)]
  cases s.fieldOk with
  | false => rfl
  | true => exact if_pos h

/-- Stage 3 for a set. -/
theorem stage3_of_set (h : opClass s.op = 2) :
    stage3 s = if s.fieldOk = true then
      if s.fits = true then .ok ((s.word &&& ~~~s.fieldMask) ||| s.placed) else .error .doesNotFit
      else .error .badField := by
  have hget : ¬opClass s.op = 1 := by rw [h]; decide
  rw [stage3, if_neg (by rw [h]; decide), if_neg (by rw [h]; decide)]
  cases s.fieldOk with
  | false => rfl
  | true => exact if_neg hget

/-- Stage 3 for a reserved code. -/
theorem stage3_of_reserved (h : opClass s.op = 3) : stage3 s = .error .badOp := if_pos h

end

section
variable {r : Request}

/-- The three stages answer a fits as its meaning does (R111, R113). -/
theorem pipelineAnswer_fits (h : opClass r.op = 0b00) : pipelineAnswer r = answerRequest r := by
  rw [answerRequest, decodeRequest_of_opClass_fits h, answer_fitsAs, ← stage2_fits]
  exact stage3_of_fits h

/-- The three stages answer a get as its meaning does (R120, R121). -/
theorem pipelineAnswer_get (h : opClass r.op = 0b01) : pipelineAnswer r = answerRequest r := by
  rw [answerRequest, decodeRequest_of_opClass_get h, answer_getAs_cases, pipelineAnswer, stage3_of_get h, stage2_fieldOk,
    stage2_mask, stage2_field, stage2_op]
  by_cases hc : U r.lsb + U r.width ≤ 64
  · rw [if_pos (decide_eq_true hc), if_pos hc, signFill_eq_sext (by omega) (extract_high_bits_clear _ _ _)]
    cases opUnsigned r.op <;> rfl
  · rw [if_neg (by simp [hc]), if_neg hc]

/-- The three stages answer a set as its meaning does (R130, R131, R146). -/
theorem pipelineAnswer_set (h : opClass r.op = 0b10) : pipelineAnswer r = answerRequest r := by
  rw [answerRequest, decodeRequest_of_opClass_set h, answer_setAs_cases, pipelineAnswer, stage3_of_set h, stage2_fieldOk,
    stage2_fits]
  by_cases hfit : valueFits (!opUnsigned r.op) r.val (U r.width) = true
  · simp only [stage2_merged hfit, decide_eq_true_eq]
  · simp only [if_neg hfit, decide_eq_true_eq]

/-- The three stages answer a reserved code BAD_OP (R67). -/
theorem pipelineAnswer_reserved (h : opClass r.op = 0b11) : pipelineAnswer r = answerRequest r := by
  have hanswer := answerRequest_reserved ((opClass_eq_iff r.op 0b11).1 h) r.word r.width r.lsb r.val
  exact (stage3_of_reserved h).trans hanswer.symm

end

/-- Settles O59: class by class, the stages' bit-level forms are the functions the meanings are written in. -/
theorem pipelineComputesTheResponse : Obligations.PipelineComputesTheResponse := by
  unfold Obligations.PipelineComputesTheResponse
  intro r
  have hclasses : ∀ c : BitVec 2, c = 0b00 ∨ c = 0b01 ∨ c = 0b10 ∨ c = 0b11 := by decide
  rcases hclasses (opClass r.op) with hfits | hget | hset | hreserved
  · exact pipelineAnswer_fits hfits
  · exact pipelineAnswer_get hget
  · exact pipelineAnswer_set hset
  · exact pipelineAnswer_reserved hreserved

end Sys2Proof.Machine
end
